-- ==== Sys2Proof/Word.lean ====
section
/-! DEFINITION. The word and byte types of the sf32b (00_scope.md R10, 20_memory.md R61). -/

namespace Sys2Proof

/-- A 32-bit value: register content, address, opcode word (00_scope.md R10). -/
abbrev Word := BitVec 32

/-- One byte of either address space. -/
abbrev Byte := BitVec 8

end Sys2Proof
end

