-- ==== Sys2Proof/Config.lean ====
section
/-! DEFINITION. What an implementation or a platform chooses (00_scope.md R7), and the free values. -/

namespace Sys2Proof.Config

/-- `SECEXC_IA` (60_exceptions.md R330): the return address of a security exception. `drawn` leaves the
choice open at every occurrence, which is the spec's own treatment (log 15). -/
inductive ReturnChoice where
  | offender
  | following
  | drawn
  deriving DecidableEq, Repr

/-- `SVPC_VALUE` (48_debug_misc.md R310): what svpc reports. `drawn` leaves the choice open (log 18). -/
inductive SvpcChoice where
  | resume
  | last
  | drawn
  deriving DecidableEq, Repr

/-- `MISALIGNED` (20_memory.md R67). -/
inductive Misaligned where
  | ignore
  | controller
  deriving DecidableEq, Repr

/-- `IEOPS_IN_AOM` (60_exceptions.md R336). -/
inductive IeOps where
  | execute
  | securityException
  deriving DecidableEq, Repr

/-- `EP_BEHAVIOUR` (10_state.md R37): the default refuses every instruction that names EP. `storage` is
the model's one alternative: EP as a plain 32-bit move operand (log 5). -/
inductive EpBehaviour where
  | refused
  | storage
  deriving DecidableEq, Repr

/-- `ID_IMA` (10_state.md R42): the implementation architecture. -/
inductive Implementation where
  | simulator
  | light
  | performance
  | superscalar
  | ultraLight
  deriving DecidableEq, Repr

/-- The code of an implementation architecture in ID.IMA: 0 to 4 (10_state.md R42). -/
def Implementation.code : Implementation → BitVec 4
  | .simulator => 0
  | .light => 1
  | .performance => 2
  | .superscalar => 3
  | .ultraLight => 4

/-- What stands behind a region of the platform's map, `MEMMAP` (20_memory.md R73). -/
inductive RegionKind where
  | ram
  | rom
  | device
  | absent
  deriving DecidableEq, Repr

/-- One region of a memory map: `size` bytes from `base` on, wrapping at the end of the space. -/
structure Region where
  base : Word
  size : Nat
  kind : RegionKind
  deriving DecidableEq, Repr

/-- `IMEM_IN_DSPACE` (20_memory.md R78): `size` bytes of the data space from `dataBase` on are the
instruction memory from `codeBase` on. -/
structure CodeWindow where
  dataBase : Word
  size : Nat
  codeBase : Word
  deriving DecidableEq, Repr

/-- The parameters of 00_scope.md R7 that the machine's behaviour depends on. `FETCH_WIDTH` has no
architectural effect (20_memory.md R64) and `DEBUG_MODULE` is a liberty of the input script, so
neither stands here; `RESET_IRN` is `resetIrn` below. -/
structure Params where
  /-- `ID_IMA` (10_state.md R42). -/
  idIma : Implementation
  /-- `ID_REV`, 1 to 15 (10_state.md R42). -/
  idRev : BitVec 4
  secExcIa : ReturnChoice
  /-- `SECEXC_NEEDS_IE` (60_exceptions.md R329). -/
  secExcNeedsIe : Bool
  ieOps : IeOps
  svpcValue : SvpcChoice
  misaligned : Misaligned
  codeWindow : Option CodeWindow
  /-- The regions of the data space that are not plain memory; the first that covers an address counts. -/
  dataMap : List Region
  /-- The same for the instruction space. -/
  codeMap : List Region
  ep : EpBehaviour
  deriving DecidableEq, Repr

/-- A part must have a non-zero revision: "A value of zero is illegal" (10_state.md R42). -/
def Params.legal (p : Params) : Bool := p.idRev != 0

/-- The parameters from reset on: the defaults of 00_scope.md R7; the two open parameters stay open;
ID_REV = 1, ID_IMA = 0 (`simulator`) and a map that is all plain memory are the model's choice (logs 10, 25).
DESIGN CHOICE, unsafe. -/
def standard : Params where
  idIma := .simulator
  idRev := 1
  secExcIa := .drawn
  secExcNeedsIe := false
  ieOps := .execute
  svpcValue := .drawn
  misaligned := .ignore
  codeWindow := none
  dataMap := []
  codeMap := []
  ep := .refused

/-- `RESET_IRN` for the reset that starts a run (70_reset_and_hazards.md R370). DESIGN CHOICE, unsafe
(log 9): "In most systems the instruction RAM starts at address zero". -/
def resetIrn : BitVec 4 := 0

/-- Free value: the word on DBI where nothing drives it (42_move_debugport.md R201; log 19). -/
opaque undrivenDbi : Nat → Word

/-- Free value: the byte a device of the platform gives to a load or a vector fetch at an address (20_memory.md R72;
log 25). The counter makes each reading access see a value of its own. -/
opaque deviceByte : Nat → Word → Byte

/-- Free value: whether a security exception under `ReturnChoice.drawn` returns past the offender
(60_exceptions.md R330; log 15). -/
opaque returnsPastOffender : Nat → Bool

/-- Free value: whether svpc under `SvpcChoice.drawn` reports the last executed instruction
(48_debug_misc.md R310; log 18). -/
opaque svpcReportsLast : Nat → Bool

/-- Free value: the flags the first rtir after reset restores, bits N Z O C (47_flow_control.md R274;
log 7). -/
opaque unsavedFlags : Nat → BitVec 4

end Sys2Proof.Config
end

