-- ==== Sys2Proof/Syntax.lean ====
section
/-! DEFINITION. The registers, the execution conditions and the 136 instruction forms of the opcode table
(10_state.md R20, 40_operands_and_conditions.md R131, 30_encoding.md R102). -/

namespace Sys2Proof

/-- The number of a general purpose register: 0 to 9 are R0 to R9, 10 to 15 RA to RF, 16 to 23 RP, RQ, RU,
RV, RW, RX, RY, RZ (10_state.md R20). -/
abbrev Gpr := Fin 24

/-- A register number of the 32-register space (10_state.md R20). -/
inductive Reg where
  | gpr (n : Gpr)
  | lc
  | cc
  | cs
  | ep
  | ta
  | sa
  | ia
  | id
  deriving DecidableEq, Repr

namespace Reg

/-- Register 0 (10_state.md R20). -/
abbrev r0 : Reg := .gpr 0
/-- Register 1 (10_state.md R20). -/
abbrev r1 : Reg := .gpr 1
/-- Register 2 (10_state.md R20). -/
abbrev r2 : Reg := .gpr 2
/-- Register 3 (10_state.md R20). -/
abbrev r3 : Reg := .gpr 3
/-- Register 4 (10_state.md R20). -/
abbrev r4 : Reg := .gpr 4
/-- Register 5 (10_state.md R20). -/
abbrev r5 : Reg := .gpr 5
/-- Register 6 (10_state.md R20). -/
abbrev r6 : Reg := .gpr 6
/-- Register 7 (10_state.md R20). -/
abbrev r7 : Reg := .gpr 7
/-- Register 8 (10_state.md R20). -/
abbrev r8 : Reg := .gpr 8
/-- Register 9 (10_state.md R20). -/
abbrev r9 : Reg := .gpr 9
/-- Register 10 (10_state.md R20). -/
abbrev ra : Reg := .gpr 10
/-- Register 11 (10_state.md R20). -/
abbrev rb : Reg := .gpr 11
/-- Register 12 (10_state.md R20). -/
abbrev rc : Reg := .gpr 12
/-- Register 13 (10_state.md R20). -/
abbrev rd : Reg := .gpr 13
/-- Register 14 (10_state.md R20). -/
abbrev re : Reg := .gpr 14
/-- Register 15 (10_state.md R20). -/
abbrev rf : Reg := .gpr 15
/-- Register 16 (10_state.md R20). -/
abbrev rp : Reg := .gpr 16
/-- Register 17 (10_state.md R20). -/
abbrev rq : Reg := .gpr 17
/-- Register 18 (10_state.md R20). -/
abbrev ru : Reg := .gpr 18
/-- Register 19 (10_state.md R20). -/
abbrev rv : Reg := .gpr 19
/-- Register 20 (10_state.md R20). -/
abbrev rw : Reg := .gpr 20
/-- Register 21 (10_state.md R20). -/
abbrev rx : Reg := .gpr 21
/-- Register 22 (10_state.md R20). -/
abbrev ry : Reg := .gpr 22
/-- Register 23 (10_state.md R20). -/
abbrev rz : Reg := .gpr 23

end Reg

/-- The 4-bit An field of an indirect addressing mode, as its field value (10_state.md R21). -/
abbrev AReg := Fin 16

/-- `AnReg` of 10_state.md R21: field values 8 to 15 select R8 to RF, 0 to 7 select RP to RZ. -/
def AReg.gpr (an : AReg) : Gpr :=
  if h : 8 ≤ an.val then ⟨an.val, by omega⟩ else ⟨an.val + 16, by omega⟩

/-- The address register as a register operand. -/
def AReg.reg (an : AReg) : Reg := .gpr an.gpr

/-- The execution condition CND, in code order 0 to 15; code 14 is `undef`
(40_operands_and_conditions.md R131). -/
inductive Cond where
  | inc
  | icr
  | ino
  | iof
  | inz
  | izr
  | ips
  | ing
  | ils
  | ihi
  | ilo
  | ige
  | ile
  | igt
  | undef
  | alw
  deriving DecidableEq, Repr

/-- A register selection RGS: bit k says whether the k-th register of the `(An)+` transfer order belongs to
it (30_encoding.md R97, 40_operands_and_conditions.md R150). -/
abbrev RegSel := BitVec 19

/-- The `(An)+` transfer order (40_operands_and_conditions.md R150). -/
def RegSel.order : List Reg :=
  [.sa, .ta, .lc, .r0, .r1, .r2, .r3, .r4, .r5, .r6, .r7, .r8, .r9, .ra, .rb, .rp, .rq, .ru, .rv]

/-- Where a register stands in the `(An)+` transfer order, for the 19 registers an RGS can hold
(40_operands_and_conditions.md R144). -/
def RegSel.position : Reg → Option Nat
  | .sa => some 0
  | .ta => some 1
  | .lc => some 2
  | .gpr n => if n.val < 12 then some (n.val + 3) else if 16 ≤ n.val ∧ n.val < 20 then some (n.val - 1) else none
  | _ => none

/-- Whether a register belongs to a selection. -/
def RegSel.holds (sel : RegSel) (r : Reg) : Bool :=
  match RegSel.position r with
  | some k => sel.getLsbD k
  | none => false

/-- The selected registers in `(An)+` transfer order. -/
def RegSel.registers (sel : RegSel) : List Reg := RegSel.order.filter (RegSel.holds sel)

/-- The instructions: one constructor per row of the opcode table, operands in assembly order (sources first,
30_encoding.md R106). Constants are the coded bits of the row's fields (30_encoding.md R91): `off` of a branch
is IO16S[15:2], `ia` of a jump is IA29U[28:2], `hi` of addh is C32U[31:16]; `hint` is the S flag. -/
inductive Instr where
  /-- `subf Rs0,Rs1,Rd,CND` (row 1, R214). -/
  | subfTri (rs0 rs1 rd : Reg) (cnd : Cond)
  /-- `addt Rs0,Rs1,Rd,CND` (row 2, R211). -/
  | addtTri (rs0 rs1 rd : Reg) (cnd : Cond)
  /-- `subc Rs0,Rs1,Rd,CND` (row 3, R215). -/
  | subcTri (rs0 rs1 rd : Reg) (cnd : Cond)
  /-- `addc Rs0,Rs1,Rd,CND` (row 4, R212). -/
  | addcTri (rs0 rs1 rd : Reg) (cnd : Cond)
  /-- `andb Rs0,Rs1,Rd,CND` (row 5, R230). -/
  | andbTri (rs0 rs1 rd : Reg) (cnd : Cond)
  /-- `iorb Rs0,Rs1,Rd,CND` (row 6, R231). -/
  | iorbTri (rs0 rs1 rd : Reg) (cnd : Cond)
  /-- `xorb Rs0,Rs1,Rd,CND` (row 7, R232). -/
  | xorbTri (rs0 rs1 rd : Reg) (cnd : Cond)
  /-- `mult Rs0,Rs1,Rd,CND` (row 8, R260). -/
  | mult (rs0 rs1 rd : Reg) (cnd : Cond)
  /-- `mlhu Rs0,Rs1,Rd,CND` (row 9, R261). -/
  | mlhu (rs0 rs1 rd : Reg) (cnd : Cond)
  /-- `mlhs Rs0,Rs1,Rd,CND` (row 10, R262). -/
  | mlhs (rs0 rs1 rd : Reg) (cnd : Cond)
  /-- `move Rs,Rd,CND` (row 11, R200). -/
  | moveDual (rs rd : Reg) (cnd : Cond)
  /-- `negt Rs,Rd,CND` (row 12, R218). -/
  | negt (rs rd : Reg) (cnd : Cond)
  /-- `absl Rs,Rd,CND` (row 13, R219). -/
  | absl (rs rd : Reg) (cnd : Cond)
  /-- `invt Rs,Rd,CND` (row 14, R233). -/
  | invt (rs rd : Reg) (cnd : Cond)
  /-- `clzr Rs,Rd,CND` (row 15, R220). -/
  | clzr (rs rd : Reg) (cnd : Cond)
  /-- `ibos Rs,Rd,CND` (row 16, R265). -/
  | ibos (rs rd : Reg) (cnd : Cond)
  /-- `ibol Rs,Rd,CND` (row 17, R266). -/
  | ibol (rs rd : Reg) (cnd : Cond)
  /-- `shlz SHC5U,Rs1,Rd,CND` (row 18, R241). -/
  | shlzK5 (k : BitVec 5) (rs1 rd : Reg) (cnd : Cond)
  /-- `shlz Rs0,Rs1,Rd,CND` (row 19, R241). -/
  | shlzTri (rs0 rs1 rd : Reg) (cnd : Cond)
  /-- `shru SHC5U,Rs1,Rd,CND` (row 20, R243). -/
  | shruK5 (k : BitVec 5) (rs1 rd : Reg) (cnd : Cond)
  /-- `shru Rs0,Rs1,Rd,CND` (row 21, R243). -/
  | shruTri (rs0 rs1 rd : Reg) (cnd : Cond)
  /-- `shlf SHC5U,Rs1,Rd,CND` (row 22, R242). -/
  | shlfK5 (k : BitVec 5) (rs1 rd : Reg) (cnd : Cond)
  /-- `shlf Rs0,Rs1,Rd,CND` (row 23, R242). -/
  | shlfTri (rs0 rs1 rd : Reg) (cnd : Cond)
  /-- `shrs SHC5U,Rs1,Rd,CND` (row 24, R244). -/
  | shrsK5 (k : BitVec 5) (rs1 rd : Reg) (cnd : Cond)
  /-- `shrs Rs0,Rs1,Rd,CND` (row 25, R244). -/
  | shrsTri (rs0 rs1 rd : Reg) (cnd : Cond)
  /-- `btcl BTI5U,Rs1,Rd,CND` (row 26, R246). -/
  | btclK5 (k : BitVec 5) (rs1 rd : Reg) (cnd : Cond)
  /-- `btcl Rs0,Rs1,Rd,CND` (row 27, R246). -/
  | btclTri (rs0 rs1 rd : Reg) (cnd : Cond)
  /-- `btst BTI5U,Rs1,Rd,CND` (row 28, R245). -/
  | btstK5 (k : BitVec 5) (rs1 rd : Reg) (cnd : Cond)
  /-- `btst Rs0,Rs1,Rd,CND` (row 29, R245). -/
  | btstTri (rs0 rs1 rd : Reg) (cnd : Cond)
  /-- `bttg BTI5U,Rs1,Rd,CND` (row 30, R247). -/
  | bttgK5 (k : BitVec 5) (rs1 rd : Reg) (cnd : Cond)
  /-- `bttg Rs0,Rs1,Rd,CND` (row 31, R247). -/
  | bttgTri (rs0 rs1 rd : Reg) (cnd : Cond)
  /-- `btts BTI5U,Rs1,CND` (row 32, R248). -/
  | bttsK5t (k : BitVec 5) (rs1 : Reg) (cnd : Cond)
  /-- `btts Rs0,Rs1,CND` (row 33, R248). -/
  | bttsTrit (rs0 rs1 : Reg) (cnd : Cond)
  /-- `comp Rs0,Rs1` (row 34, R216). -/
  | compCmpr (rs0 rs1 : Reg)
  /-- `cmpc Rs0,Rs1` (row 35, R217). -/
  | cmpcCmpr (rs0 rs1 : Reg)
  /-- `mtdp Rs` (row 36, R202). -/
  | mtdp (rs : Reg)
  /-- `mfdp Rd` (row 37, R201). -/
  | mfdp (rd : Reg)
  /-- `subf C12U,Rs1,Rd,CND` (row 38, R214). -/
  | subfK12 (c : BitVec 12) (rs1 rd : Reg) (cnd : Cond)
  /-- `addt C12U,Rs1,Rd,CND` (row 39, R211). -/
  | addtK12 (c : BitVec 12) (rs1 rd : Reg) (cnd : Cond)
  /-- `subc C12U,Rs1,Rd,CND` (row 40, R215). -/
  | subcK12 (c : BitVec 12) (rs1 rd : Reg) (cnd : Cond)
  /-- `addc C12U,Rs1,Rd,CND` (row 41, R212). -/
  | addcK12 (c : BitVec 12) (rs1 rd : Reg) (cnd : Cond)
  /-- `move C17S,Rd,CND` (row 42, R200). -/
  | moveK17m (c : BitVec 17) (rd : Reg) (cnd : Cond)
  /-- `subf C16U,Rs1,Rd` (row 43, R214). -/
  | subfK16 (c : BitVec 16) (rs1 rd : Reg)
  /-- `addt C16U,Rs1,Rd` (row 44, R211). -/
  | addtK16 (c : BitVec 16) (rs1 rd : Reg)
  /-- `andb C16U,Rs1,Rd` (row 45, R230). -/
  | andbK16 (c : BitVec 16) (rs1 rd : Reg)
  /-- `iorb C16U,Rs1,Rd` (row 46, R231). -/
  | iorbK16 (c : BitVec 16) (rs1 rd : Reg)
  /-- `xorb C16U,Rs1,Rd` (row 47, R232). -/
  | xorbK16 (c : BitVec 16) (rs1 rd : Reg)
  /-- `addh C32U,Rs1,Rd` (row 48, R213). -/
  | addh (hi : BitVec 16) (rs1 rd : Reg)
  /-- `mlcu C16U,Rs1,Rd` (row 49, R263). -/
  | mlcu (c : BitVec 16) (rs1 rd : Reg)
  /-- `mlcs C16S,Rs1,Rd` (row 50, R264). -/
  | mlcs (c : BitVec 16) (rs1 rd : Reg)
  /-- `comp C17S,Rs1` (row 51, R216). -/
  | compK17c (c : BitVec 17) (rs1 : Reg)
  /-- `cmpc C17S,Rs1` (row 52, R217). -/
  | cmpcK17c (c : BitVec 17) (rs1 : Reg)
  /-- `ldbz DA16S,Rd,CND` (row 53, R175). -/
  | ldbzLsd (da : BitVec 16) (rd : Reg) (cnd : Cond)
  /-- `ldbz (DO12S,An),Rd,CND` (row 54, R175). -/
  | ldbzLso (dof : BitVec 12) (an : AReg) (rd : Reg) (cnd : Cond)
  /-- `ldbz (An,AU12S)*,Rd,CND` (row 55, R175). -/
  | ldbzLsu (an : AReg) (au : BitVec 12) (rd : Reg) (cnd : Cond)
  /-- `ldbz (An,Ru)*,Rd,CND` (row 56, R175). -/
  | ldbzLsr (an : AReg) (ru rd : Reg) (cnd : Cond)
  /-- `ldbz (Rx,An),Rd,CND` (row 57, R175). -/
  | ldbzLsx (rx : Reg) (an : AReg) (rd : Reg) (cnd : Cond)
  /-- `ldbz (An)+,RGS` (row 58, R175). -/
  | ldbzRgsi (an : AReg) (sel : RegSel)
  /-- `ldbz -(An),RGS` (row 59, R175). -/
  | ldbzRgsd (an : AReg) (sel : RegSel)
  /-- `ldbs DA16S,Rd,CND` (row 60, R176). -/
  | ldbsLsd (da : BitVec 16) (rd : Reg) (cnd : Cond)
  /-- `ldbs (DO12S,An),Rd,CND` (row 61, R176). -/
  | ldbsLso (dof : BitVec 12) (an : AReg) (rd : Reg) (cnd : Cond)
  /-- `ldbs (An,AU12S)*,Rd,CND` (row 62, R176). -/
  | ldbsLsu (an : AReg) (au : BitVec 12) (rd : Reg) (cnd : Cond)
  /-- `ldbs (An,Ru)*,Rd,CND` (row 63, R176). -/
  | ldbsLsr (an : AReg) (ru rd : Reg) (cnd : Cond)
  /-- `ldbs (Rx,An),Rd,CND` (row 64, R176). -/
  | ldbsLsx (rx : Reg) (an : AReg) (rd : Reg) (cnd : Cond)
  /-- `ldbs (An)+,RGS` (row 65, R176). -/
  | ldbsRgsi (an : AReg) (sel : RegSel)
  /-- `ldbs -(An),RGS` (row 66, R176). -/
  | ldbsRgsd (an : AReg) (sel : RegSel)
  /-- `ldsz DA16S,Rd,CND` (row 67, R177). -/
  | ldszLsd (da : BitVec 16) (rd : Reg) (cnd : Cond)
  /-- `ldsz (DO12S,An),Rd,CND` (row 68, R177). -/
  | ldszLso (dof : BitVec 12) (an : AReg) (rd : Reg) (cnd : Cond)
  /-- `ldsz (An,AU12S)*,Rd,CND` (row 69, R177). -/
  | ldszLsu (an : AReg) (au : BitVec 12) (rd : Reg) (cnd : Cond)
  /-- `ldsz (An,Ru)*,Rd,CND` (row 70, R177). -/
  | ldszLsr (an : AReg) (ru rd : Reg) (cnd : Cond)
  /-- `ldsz (Rx,An),Rd,CND` (row 71, R177). -/
  | ldszLsx (rx : Reg) (an : AReg) (rd : Reg) (cnd : Cond)
  /-- `ldsz (An)+,RGS` (row 72, R177). -/
  | ldszRgsi (an : AReg) (sel : RegSel)
  /-- `ldsz -(An),RGS` (row 73, R177). -/
  | ldszRgsd (an : AReg) (sel : RegSel)
  /-- `ldss DA16S,Rd,CND` (row 74, R178). -/
  | ldssLsd (da : BitVec 16) (rd : Reg) (cnd : Cond)
  /-- `ldss (DO12S,An),Rd,CND` (row 75, R178). -/
  | ldssLso (dof : BitVec 12) (an : AReg) (rd : Reg) (cnd : Cond)
  /-- `ldss (An,AU12S)*,Rd,CND` (row 76, R178). -/
  | ldssLsu (an : AReg) (au : BitVec 12) (rd : Reg) (cnd : Cond)
  /-- `ldss (An,Ru)*,Rd,CND` (row 77, R178). -/
  | ldssLsr (an : AReg) (ru rd : Reg) (cnd : Cond)
  /-- `ldss (Rx,An),Rd,CND` (row 78, R178). -/
  | ldssLsx (rx : Reg) (an : AReg) (rd : Reg) (cnd : Cond)
  /-- `ldss (An)+,RGS` (row 79, R178). -/
  | ldssRgsi (an : AReg) (sel : RegSel)
  /-- `ldss -(An),RGS` (row 80, R178). -/
  | ldssRgsd (an : AReg) (sel : RegSel)
  /-- `ldlg DA16S,Rd,CND` (row 81, R179). -/
  | ldlgLsd (da : BitVec 16) (rd : Reg) (cnd : Cond)
  /-- `ldlg (DO12S,An),Rd,CND` (row 82, R179). -/
  | ldlgLso (dof : BitVec 12) (an : AReg) (rd : Reg) (cnd : Cond)
  /-- `ldlg (An,AU12S)*,Rd,CND` (row 83, R179). -/
  | ldlgLsu (an : AReg) (au : BitVec 12) (rd : Reg) (cnd : Cond)
  /-- `ldlg (An,Ru)*,Rd,CND` (row 84, R179). -/
  | ldlgLsr (an : AReg) (ru rd : Reg) (cnd : Cond)
  /-- `ldlg (Rx,An),Rd,CND` (row 85, R179). -/
  | ldlgLsx (rx : Reg) (an : AReg) (rd : Reg) (cnd : Cond)
  /-- `ldlg (An)+,RGS` (row 86, R179). -/
  | ldlgRgsi (an : AReg) (sel : RegSel)
  /-- `ldlg -(An),RGS` (row 87, R179). -/
  | ldlgRgsd (an : AReg) (sel : RegSel)
  /-- `stbt Rs,DA16S,CND` (row 88, R180). -/
  | stbtLsd (rs : Reg) (da : BitVec 16) (cnd : Cond)
  /-- `stbt Rs,(DO12S,An),CND` (row 89, R180). -/
  | stbtLso (rs : Reg) (dof : BitVec 12) (an : AReg) (cnd : Cond)
  /-- `stbt Rs,(An,AU12S)*,CND` (row 90, R180). -/
  | stbtLsu (rs : Reg) (an : AReg) (au : BitVec 12) (cnd : Cond)
  /-- `stbt Rs,(An,Ru)*,CND` (row 91, R180). -/
  | stbtLsr (rs : Reg) (an : AReg) (ru : Reg) (cnd : Cond)
  /-- `stbt Rs,(Rx,An),CND` (row 92, R180). -/
  | stbtLsx (rs rx : Reg) (an : AReg) (cnd : Cond)
  /-- `stbt RGS,(An)+` (row 93, R180). -/
  | stbtRgsi (sel : RegSel) (an : AReg)
  /-- `stbt RGS,-(An)` (row 94, R180). -/
  | stbtRgsd (sel : RegSel) (an : AReg)
  /-- `stlg Rs,DA16S,CND` (row 95, R182). -/
  | stlgLsd (rs : Reg) (da : BitVec 16) (cnd : Cond)
  /-- `stlg Rs,(DO12S,An),CND` (row 96, R182). -/
  | stlgLso (rs : Reg) (dof : BitVec 12) (an : AReg) (cnd : Cond)
  /-- `stlg Rs,(An,AU12S)*,CND` (row 97, R182). -/
  | stlgLsu (rs : Reg) (an : AReg) (au : BitVec 12) (cnd : Cond)
  /-- `stlg Rs,(An,Ru)*,CND` (row 98, R182). -/
  | stlgLsr (rs : Reg) (an : AReg) (ru : Reg) (cnd : Cond)
  /-- `stlg Rs,(Rx,An),CND` (row 99, R182). -/
  | stlgLsx (rs rx : Reg) (an : AReg) (cnd : Cond)
  /-- `stlg RGS,(An)+` (row 100, R182). -/
  | stlgRgsi (sel : RegSel) (an : AReg)
  /-- `stlg RGS,-(An)` (row 101, R182). -/
  | stlgRgsd (sel : RegSel) (an : AReg)
  /-- `stsh Rs,DA16S,CND` (row 102, R181). -/
  | stshLsd (rs : Reg) (da : BitVec 16) (cnd : Cond)
  /-- `stsh Rs,(DO12S,An),CND` (row 103, R181). -/
  | stshLso (rs : Reg) (dof : BitVec 12) (an : AReg) (cnd : Cond)
  /-- `stsh Rs,(An,AU12S)*,CND` (row 104, R181). -/
  | stshLsu (rs : Reg) (an : AReg) (au : BitVec 12) (cnd : Cond)
  /-- `stsh Rs,(An,Ru)*,CND` (row 105, R181). -/
  | stshLsr (rs : Reg) (an : AReg) (ru : Reg) (cnd : Cond)
  /-- `stsh Rs,(Rx,An),CND` (row 106, R181). -/
  | stshLsx (rs rx : Reg) (an : AReg) (cnd : Cond)
  /-- `stsh RGS,(An)+` (row 107, R181). -/
  | stshRgsi (sel : RegSel) (an : AReg)
  /-- `stsh RGS,-(An)` (row 108, R181). -/
  | stshRgsd (sel : RegSel) (an : AReg)
  /-- `brnc IO16S,S` (row 109, R277). -/
  | brnc (off : BitVec 14) (hint : Bool)
  /-- `brcr IO16S,S` (row 110, R278). -/
  | brcr (off : BitVec 14) (hint : Bool)
  /-- `brno IO16S,S` (row 111, R279). -/
  | brno (off : BitVec 14) (hint : Bool)
  /-- `brof IO16S,S` (row 112, R280). -/
  | brof (off : BitVec 14) (hint : Bool)
  /-- `brnz IO16S,S` (row 113, R281). -/
  | brnz (off : BitVec 14) (hint : Bool)
  /-- `brzr IO16S,S` (row 114, R282). -/
  | brzr (off : BitVec 14) (hint : Bool)
  /-- `brps IO16S,S` (row 115, R283). -/
  | brps (off : BitVec 14) (hint : Bool)
  /-- `brng IO16S,S` (row 116, R284). -/
  | brng (off : BitVec 14) (hint : Bool)
  /-- `brls IO16S,S` (row 117, R285). -/
  | brls (off : BitVec 14) (hint : Bool)
  /-- `brhi IO16S,S` (row 118, R286). -/
  | brhi (off : BitVec 14) (hint : Bool)
  /-- `brlo IO16S,S` (row 119, R287). -/
  | brlo (off : BitVec 14) (hint : Bool)
  /-- `brge IO16S,S` (row 120, R288). -/
  | brge (off : BitVec 14) (hint : Bool)
  /-- `brle IO16S,S` (row 121, R289). -/
  | brle (off : BitVec 14) (hint : Bool)
  /-- `brgt IO16S,S` (row 122, R290). -/
  | brgt (off : BitVec 14) (hint : Bool)
  /-- `brlc IO16S` (row 123, R275). -/
  | brlc (off : BitVec 14)
  /-- `jump implied` (row 124, R271). -/
  | jumpImp
  /-- `jpsr implied` (row 125, R272). -/
  | jpsrImp
  /-- `rtsr implied` (row 126, R273). -/
  | rtsr
  /-- `rtir implied` (row 127, R274). -/
  | rtir
  /-- `stop implied` (row 128, R312). -/
  | stop
  /-- `svpc implied` (row 129, R310). -/
  | svpc
  /-- `rspc implied` (row 130, R311). -/
  | rspc
  /-- `stie implied` (row 131, R291). -/
  | stie
  /-- `clie implied` (row 132, R292). -/
  | clie
  /-- `rsie implied` (row 133, R294). -/
  | rsie
  /-- `scie implied` (row 134, R293). -/
  | scie
  /-- `jump IA29U` (row 135, R271). -/
  | jumpJa (ia : BitVec 27)
  /-- `jpsr IA29U` (row 136, R272). -/
  | jpsrJa (ia : BitVec 27)
  deriving DecidableEq, Repr

end Sys2Proof
end

