-- ==== Sys2Proof/Machine/State.lean ====
section
/-! DEFINITION. The state of the sf32b (10_state.md), its inputs and outputs, and the reasons a step stops. -/

namespace Sys2Proof.Machine

/-- The size of a memory access (20_memory.md R66). -/
inductive Size where
  | byte
  | short
  | long
  deriving DecidableEq, Repr

/-- The two address spaces (20_memory.md R62). -/
inductive Space where
  | code
  | data
  deriving DecidableEq, Repr

/-- One access on a bus as its signals show it: the full byte address, the size, the direction, the data of a write, and
whether it is a som access (20_memory.md R67, R69, R74). -/
structure BusAccess where
  space : Space
  /-- The bytes of a write as an unsigned value; `none` for a read. -/
  written : Option Word
  addr : Word
  size : Size
  som : Bool
  deriving DecidableEq, Repr

/-- The condition code flags (10_state.md R25). -/
structure Flags where
  n : Bool
  z : Bool
  o : Bool
  c : Bool
  deriving DecidableEq, Repr

/-- The stored bits of CS; bits [5:3] are hard wired to zero (10_state.md R32). -/
structure ControlStatus where
  ivtp : BitVec 26
  is : Bool
  ie : Bool
  ir : Bool
  deriving DecidableEq, Repr

/-- One byte the debug module writes directly into a memory (60_exceptions.md R342). -/
structure Poke where
  space : Space
  addr : Word
  value : Byte
  deriving DecidableEq, Repr

/-- What the environment drives for one step (10_state.md R49, 92_eei_decisions.md section 3). -/
structure Inputs where
  reset : Bool
  irq : Bool
  irn : BitVec 4
  strq : Bool
  /-- INJI asserted with this opcode word (60_exceptions.md R345). -/
  inji : Option Word
  /-- The data word on DBI, `none` where nothing drives it (log 19). -/
  dbi : Option Word
  /-- The debug module's comparators replace the fetched word by a stop opcode (60_exceptions.md R347). -/
  breakpoint : Bool
  /-- Bytes the debug module writes while the core is stopped (60_exceptions.md R342). -/
  pokes : List Poke
  deriving DecidableEq, Repr

/-- No input asserted: what an exhausted input script drives (log 20). -/
def Inputs.quiet : Inputs where
  reset := false
  irq := false
  irn := 0
  strq := false
  inji := none
  dbi := none
  breakpoint := false
  pokes := []

/-- A memory: address and byte pairs in canonical form (addresses strictly rising, no entry equal to what an
unlisted address reads as). -/
abbrev Memory := List Host.Cell

/-- Why the machine stops with a fault. Safe: the hardware has no such trap, the model only refuses to go on. -/
inductive Fault where
  /-- A load, a store or a vector fetch at a data address where the platform's map has nothing
  (20_memory.md R69). Raised by data accesses. Safe. -/
  | absentData (addr : Word)
  /-- An instruction fetch at an address where the platform's map has nothing (20_memory.md R68). Raised by the
  fetch, and by data accesses through a code window. Safe. -/
  | absentCode (addr : Word)
  deriving DecidableEq, Repr

/-- Why a step has no meaning. Every one is safe: the spec tells a model to refuse (00_scope.md R11). -/
inductive Refusal where
  /-- An instruction whose meaning is not written yet; raised by `exec` alone. Safe. -/
  | notModelled (mnemonic : String)
  /-- A word that matches no row of the opcode table (30_encoding.md R103). Raised by fetch and injection. Safe. -/
  | unassigned (w : Word)
  /-- CND = 14 (30_encoding.md R104). Raised by every conditional form. Safe. -/
  | undefinedCondition
  /-- An RGS form that selects no register (30_encoding.md R104). Raised by RGS loads and stores. Safe. -/
  | emptySelection
  /-- A register in a position the property table forbids (10_state.md R45, R46). Raised by computation, load and
  store instructions. Safe. -/
  | forbiddenRegister (r : Reg)
  /-- EP named where `EP_BEHAVIOUR` gives it no behaviour (10_state.md R37). Raised by move, mfdp, mtdp. Safe. -/
  | extensionRegister
  /-- A load whose destination is a register its own update uses (41_load_store.md R172). Raised by update-mode and
  RGS loads. Safe. -/
  | loadOverlap (r : Reg)
  /-- rtir with CS.IR = 0, "not defined" (47_flow_control.md R274). Raised by rtir. Safe. -/
  | returnOutsideInterrupt
  /-- svpc or rspc fetched from the instruction stream (48_debug_misc.md R310, R311). Raised by both. Safe. -/
  | debugOnly
  /-- A flow instruction injected in the stopped state (60_exceptions.md R345). Raised by flow instructions. Safe. -/
  | injectedFlow
  /-- A stop injected in the stopped state (60_exceptions.md R345). Raised by stop. Safe. -/
  | injectedStop
  /-- An injected instruction that would raise the security exception (60_exceptions.md R345). Raised by move, mfdp
  and the interrupt-enable instructions. Safe. -/
  | injectedSecurityException
  /-- A security exception with CS.IE = 0 under `SECEXC_NEEDS_IE` (60_exceptions.md R329). Safe. -/
  | maskedSecurityException
  /-- A running program's store into a window of instruction memory (20_memory.md R78). Raised by stores. Safe. -/
  | storeToCode (addr : Word)
  /-- A misaligned access under `MISALIGNED = controller` (20_memory.md R67). Raised by data accesses. Safe. -/
  | misalignedAccess (addr : Word)
  /-- An instruction fetch at an address where the platform's map has a device and no instruction memory
  (20_memory.md R68). Raised by the fetch. Safe. -/
  | deviceFetch (addr : Word)
  deriving DecidableEq, Repr

/-- Why an operation stops: one of the two kinds of reason. -/
inductive Stop where
  | fault (f : Fault)
  | refusal (r : Refusal)
  deriving DecidableEq, Repr

/-- The machine (10_state.md R53): the registers, the program counter, the debug state, the two memories, the input
script, the outputs of the last step, and the parameters, which no step changes. -/
structure State where
  /-- R0 to RZ (10_state.md R22, R23). -/
  gprs : Vector Word 24
  /-- LC (10_state.md R24). -/
  lc : Word
  /-- CC (10_state.md R25). -/
  cc : Flags
  /-- CS (10_state.md R32). -/
  cs : ControlStatus
  /-- EP, opaque in the base ISA (10_state.md R37, R53). -/
  ep : Word
  /-- TA[31:2] (10_state.md R38). -/
  ta : BitVec 30
  /-- SA[31:2] (10_state.md R39). -/
  sa : BitVec 30
  /-- IA[31:2] (10_state.md R40). -/
  ia : BitVec 30
  /-- The hidden copy of CC (10_state.md R31). -/
  hcc : Flags
  /-- The model's own: an interrupt entry has written `hcc` since reset (log 7). -/
  hccSaved : Bool
  /-- The program counter (10_state.md R47). -/
  pc : Word
  /-- The stopped state, output STPD (60_exceptions.md R343). -/
  stopped : Bool
  /-- STRQ has been seen asserted while stopped (60_exceptions.md R346). -/
  strqSeen : Bool
  /-- The address of the last instruction fetched from the stream (48_debug_misc.md R310). -/
  lia : Word
  /-- The debug output port (10_state.md R48). -/
  dbo : Word
  /-- IACK(n) of the last step (60_exceptions.md R326). -/
  iack : Option (BitVec 4)
  /-- The bus accesses of the last step, first access first (20_memory.md R69, R75). -/
  bus : List BusAccess
  /-- The data address space (20_memory.md R61). -/
  dmem : Memory
  /-- The instruction address space (20_memory.md R60). -/
  imem : Memory
  /-- What the environment drives at the coming steps, one entry a step (log 20). -/
  inputs : List Inputs
  /-- DBI during this step (42_move_debugport.md R201). -/
  dbi : Option Word
  /-- The model's own: how many free values have been drawn (log 36). -/
  draws : Nat
  /-- The parameters of 00_scope.md R7. -/
  params : Config.Params
  deriving DecidableEq, Repr

/-- All flags clear: CC after reset (10_state.md R50). -/
def Flags.clear : Flags where
  n := false
  z := false
  o := false
  c := false

/-- The machine right after reset (10_state.md R50, 70_reset_and_hazards.md R370, R371). CC, CS.IR, CS.IE and CS.IS
are the spec's; what R50 leaves undefined has the value of the log entry its line in INVENTORY.md names (DESIGN
CHOICE, unsafe). -/
def State.reset : State where
  gprs := Vector.replicate 24 0
  lc := 0
  cc := Flags.clear
  cs := { ivtp := 0, is := false, ie := false, ir := true }
  ep := 0
  ta := 0
  sa := 0
  ia := 0
  hcc := Flags.clear
  hccSaved := false
  pc := Config.resetIrn ++ 0#28
  stopped := false
  strqSeen := false
  lia := 0
  dbo := 0
  iack := none
  bus := []
  dmem := []
  imem := []
  inputs := []
  dbi := none
  draws := 0
  params := Config.standard

end Sys2Proof.Machine
end

