-- ==== Sys2Proof/Machine/Flags.lean ====
section
/-! DEFINITION. Every flag computation of the instruction set (43_arithmetic.md R210, 44_logic.md R230,
45_shift_bit.md R248) and the 14 conditions (40_operands_and_conditions.md R131). -/

namespace Sys2Proof.Machine

/-- `AddFlags` carry: out of bit 31 (43_arithmetic.md R210). -/
def addCarry (src0 src1 r : Word) : Bool :=
  (src1.msb && src0.msb) || (src1.msb && !r.msb) || (src0.msb && !r.msb)

/-- `AddFlags` overflow (43_arithmetic.md R210). -/
def addOverflow (src0 src1 r : Word) : Bool :=
  (src1.msb && src0.msb && !r.msb) || (!src1.msb && !src0.msb && r.msb)

/-- `SubFlags` borrow of `src1 - src0` (43_arithmetic.md R210). -/
def subBorrow (src0 src1 r : Word) : Bool :=
  (!src1.msb && src0.msb) || (!src1.msb && r.msb) || (src0.msb && r.msb)

/-- `SubFlags` overflow of `src1 - src0` (43_arithmetic.md R210). -/
def subOverflow (src0 src1 r : Word) : Bool :=
  (src1.msb && !src0.msb && !r.msb) || (!src1.msb && src0.msb && r.msb)

/-- The flags of addt (43_arithmetic.md R211). -/
def addFlags (src0 src1 r : Word) : Flags :=
  { n := r.msb, z := r == 0, o := addOverflow src0 src1 r, c := addCarry src0 src1 r }

/-- The flags of subf and comp (43_arithmetic.md R214, R216). -/
def subFlags (src0 src1 r : Word) : Flags :=
  { n := r.msb, z := r == 0, o := subOverflow src0 src1 r, c := subBorrow src0 src1 r }

/-- Z of addc, subc and cmpc: set only if it was set before (10_state.md R28). -/
def Flags.stickyZero (old new : Flags) : Flags := { new with z := old.z && new.z }

/-- The carry flag as an addend (43_arithmetic.md R212, R215). -/
def Flags.carryWord (f : Flags) : Word := (BitVec.ofBool f.c).setWidth 32

/-- The exclusive or of the low `n` bits. -/
def parityBelow (w : Word) : Nat → Bool
  | 0 => false
  | n + 1 => w.getLsbD n ^^ parityBelow w n

/-- Parity: true when the number of 1 bits is odd (44_logic.md R230). -/
def parity (w : Word) : Bool := parityBelow w 32

/-- The flags of andb; O uses the old C (44_logic.md R230). -/
def andFlags (old : Flags) (r : Word) : Flags :=
  { n := r.msb, z := r == 0, o := parity r ^^ old.c, c := parity r }

/-- The flags of btts (45_shift_bit.md R248). -/
def testFlags (t : Word) : Flags := { n := t.msb, z := t == 0, o := false, c := false }

/-- The condition CND over the flags (40_operands_and_conditions.md R131). Code 14 has no condition; the forms that
carry it refuse before they ask. -/
def condHolds (c : Cond) (f : Flags) : Bool :=
  match c with
  | .inc => !f.c
  | .icr => f.c
  | .ino => !f.o
  | .iof => f.o
  | .inz => !f.z
  | .izr => f.z
  | .ips => !f.n
  | .ing => f.n
  | .ils => f.c || f.z
  | .ihi => !f.c && !f.z
  | .ilo => (f.n && !f.o) || (!f.n && f.o)
  | .ige => (f.n && f.o) || (!f.n && !f.o)
  | .ile => f.z || (f.n && !f.o) || (!f.n && f.o)
  | .igt => !f.z && ((f.n && f.o) || (!f.n && !f.o))
  | .undef => false
  | .alw => true

end Sys2Proof.Machine
end

