-- ==== Sys2Proof/WellFormed.lean ====
section
/-! DEFINITION. Which instruction terms the base ISA allows: the register property table
(10_state.md R45, R46), the condition codes (R131) and the refused values of 30_encoding.md R104. -/

namespace Sys2Proof

/-- General purpose registers: the operands of computation instructions (10_state.md R45, R46). -/
def Reg.isGpr : Reg → Bool
  | .gpr _ => true
  | _ => false

/-- Registers a single-register load or store may transfer (41_load_store.md R171). -/
def Reg.canTransfer : Reg → Bool
  | .gpr _ | .lc | .ta | .sa => true
  | _ => false

/-- Registers that may be an index Rx or an update Ru (41_load_store.md R171). -/
def Reg.canIndex : Reg → Bool
  | .gpr _ | .lc => true
  | _ => false

/-- CND codes with a meaning (40_operands_and_conditions.md R131). -/
def Cond.defined (c : Cond) : Bool := c != .undef

namespace WellFormed

/-- Operands of a computation instruction. -/
def compute (regs : List Reg) (cnd : Cond) : Bool := regs.all Reg.isGpr && cnd.defined

/-- Operands of move, mfdp and mtdp: any register but EP (42_move_debugport.md R200 to R202). -/
def move (regs : List Reg) (cnd : Cond) : Bool := regs.all (· != .ep) && cnd.defined

/-- Operands of a single-register load or store: `index` holds Rx or Ru (41_load_store.md R171). -/
def access (reg : Reg) (index : List Reg) (cnd : Cond) : Bool :=
  reg.canTransfer && index.all Reg.canIndex && cnd.defined

/-- A load destination that is none of the registers its own update uses (41_load_store.md R172). -/
def apart (rd : Reg) (used : List Reg) : Bool := !used.contains rd

/-- An RGS operand that selects a register (30_encoding.md R104). -/
def selection (sel : RegSel) : Bool := sel != 0

end WellFormed

open WellFormed in
/-- The terms that 30_encoding.md R104 does not refuse. -/
def Instr.wellFormed : Instr → Bool
  | .subfTri rs0 rs1 rd cnd => compute [rs0, rs1, rd] cnd
  | .addtTri rs0 rs1 rd cnd => compute [rs0, rs1, rd] cnd
  | .subcTri rs0 rs1 rd cnd => compute [rs0, rs1, rd] cnd
  | .addcTri rs0 rs1 rd cnd => compute [rs0, rs1, rd] cnd
  | .andbTri rs0 rs1 rd cnd => compute [rs0, rs1, rd] cnd
  | .iorbTri rs0 rs1 rd cnd => compute [rs0, rs1, rd] cnd
  | .xorbTri rs0 rs1 rd cnd => compute [rs0, rs1, rd] cnd
  | .mult rs0 rs1 rd cnd => compute [rs0, rs1, rd] cnd
  | .mlhu rs0 rs1 rd cnd => compute [rs0, rs1, rd] cnd
  | .mlhs rs0 rs1 rd cnd => compute [rs0, rs1, rd] cnd
  | .moveDual rs rd cnd => move [rs, rd] cnd
  | .negt rs rd cnd => compute [rs, rd] cnd
  | .absl rs rd cnd => compute [rs, rd] cnd
  | .invt rs rd cnd => compute [rs, rd] cnd
  | .clzr rs rd cnd => compute [rs, rd] cnd
  | .ibos rs rd cnd => compute [rs, rd] cnd
  | .ibol rs rd cnd => compute [rs, rd] cnd
  | .shlzK5 _ rs1 rd cnd => compute [rs1, rd] cnd
  | .shlzTri rs0 rs1 rd cnd => compute [rs0, rs1, rd] cnd
  | .shruK5 _ rs1 rd cnd => compute [rs1, rd] cnd
  | .shruTri rs0 rs1 rd cnd => compute [rs0, rs1, rd] cnd
  | .shlfK5 _ rs1 rd cnd => compute [rs1, rd] cnd
  | .shlfTri rs0 rs1 rd cnd => compute [rs0, rs1, rd] cnd
  | .shrsK5 _ rs1 rd cnd => compute [rs1, rd] cnd
  | .shrsTri rs0 rs1 rd cnd => compute [rs0, rs1, rd] cnd
  | .btclK5 _ rs1 rd cnd => compute [rs1, rd] cnd
  | .btclTri rs0 rs1 rd cnd => compute [rs0, rs1, rd] cnd
  | .btstK5 _ rs1 rd cnd => compute [rs1, rd] cnd
  | .btstTri rs0 rs1 rd cnd => compute [rs0, rs1, rd] cnd
  | .bttgK5 _ rs1 rd cnd => compute [rs1, rd] cnd
  | .bttgTri rs0 rs1 rd cnd => compute [rs0, rs1, rd] cnd
  | .bttsK5t _ rs1 cnd => compute [rs1] cnd
  | .bttsTrit rs0 rs1 cnd => compute [rs0, rs1] cnd
  | .compCmpr rs0 rs1 => compute [rs0, rs1] .alw
  | .cmpcCmpr rs0 rs1 => compute [rs0, rs1] .alw
  | .mtdp rs => move [rs] .alw
  | .mfdp rd => move [rd] .alw
  | .subfK12 _ rs1 rd cnd => compute [rs1, rd] cnd
  | .addtK12 _ rs1 rd cnd => compute [rs1, rd] cnd
  | .subcK12 _ rs1 rd cnd => compute [rs1, rd] cnd
  | .addcK12 _ rs1 rd cnd => compute [rs1, rd] cnd
  | .moveK17m _ rd cnd => move [rd] cnd
  | .subfK16 _ rs1 rd => compute [rs1, rd] .alw
  | .addtK16 _ rs1 rd => compute [rs1, rd] .alw
  | .andbK16 _ rs1 rd => compute [rs1, rd] .alw
  | .iorbK16 _ rs1 rd => compute [rs1, rd] .alw
  | .xorbK16 _ rs1 rd => compute [rs1, rd] .alw
  | .addh _ rs1 rd => compute [rs1, rd] .alw
  | .mlcu _ rs1 rd => compute [rs1, rd] .alw
  | .mlcs _ rs1 rd => compute [rs1, rd] .alw
  | .compK17c _ rs1 => compute [rs1] .alw
  | .cmpcK17c _ rs1 => compute [rs1] .alw
  | .ldbzLsd _ rd cnd => access rd [] cnd
  | .ldbzLso _ _ rd cnd => access rd [] cnd
  | .ldbzLsu an _ rd cnd => access rd [] cnd && apart rd [an.reg]
  | .ldbzLsr an ru rd cnd => access rd [ru] cnd && apart rd [an.reg, ru]
  | .ldbzLsx rx _ rd cnd => access rd [rx] cnd
  | .ldbzRgsi an sel => selection sel && !RegSel.holds sel an.reg
  | .ldbzRgsd an sel => selection sel && !RegSel.holds sel an.reg
  | .ldbsLsd _ rd cnd => access rd [] cnd
  | .ldbsLso _ _ rd cnd => access rd [] cnd
  | .ldbsLsu an _ rd cnd => access rd [] cnd && apart rd [an.reg]
  | .ldbsLsr an ru rd cnd => access rd [ru] cnd && apart rd [an.reg, ru]
  | .ldbsLsx rx _ rd cnd => access rd [rx] cnd
  | .ldbsRgsi an sel => selection sel && !RegSel.holds sel an.reg
  | .ldbsRgsd an sel => selection sel && !RegSel.holds sel an.reg
  | .ldszLsd _ rd cnd => access rd [] cnd
  | .ldszLso _ _ rd cnd => access rd [] cnd
  | .ldszLsu an _ rd cnd => access rd [] cnd && apart rd [an.reg]
  | .ldszLsr an ru rd cnd => access rd [ru] cnd && apart rd [an.reg, ru]
  | .ldszLsx rx _ rd cnd => access rd [rx] cnd
  | .ldszRgsi an sel => selection sel && !RegSel.holds sel an.reg
  | .ldszRgsd an sel => selection sel && !RegSel.holds sel an.reg
  | .ldssLsd _ rd cnd => access rd [] cnd
  | .ldssLso _ _ rd cnd => access rd [] cnd
  | .ldssLsu an _ rd cnd => access rd [] cnd && apart rd [an.reg]
  | .ldssLsr an ru rd cnd => access rd [ru] cnd && apart rd [an.reg, ru]
  | .ldssLsx rx _ rd cnd => access rd [rx] cnd
  | .ldssRgsi an sel => selection sel && !RegSel.holds sel an.reg
  | .ldssRgsd an sel => selection sel && !RegSel.holds sel an.reg
  | .ldlgLsd _ rd cnd => access rd [] cnd
  | .ldlgLso _ _ rd cnd => access rd [] cnd
  | .ldlgLsu an _ rd cnd => access rd [] cnd && apart rd [an.reg]
  | .ldlgLsr an ru rd cnd => access rd [ru] cnd && apart rd [an.reg, ru]
  | .ldlgLsx rx _ rd cnd => access rd [rx] cnd
  | .ldlgRgsi an sel => selection sel && !RegSel.holds sel an.reg
  | .ldlgRgsd an sel => selection sel && !RegSel.holds sel an.reg
  | .stbtLsd rs _ cnd => access rs [] cnd
  | .stbtLso rs _ _ cnd => access rs [] cnd
  | .stbtLsu rs _ _ cnd => access rs [] cnd
  | .stbtLsr rs _ ru cnd => access rs [ru] cnd
  | .stbtLsx rs rx _ cnd => access rs [rx] cnd
  | .stbtRgsi sel _ => selection sel
  | .stbtRgsd sel _ => selection sel
  | .stlgLsd rs _ cnd => access rs [] cnd
  | .stlgLso rs _ _ cnd => access rs [] cnd
  | .stlgLsu rs _ _ cnd => access rs [] cnd
  | .stlgLsr rs _ ru cnd => access rs [ru] cnd
  | .stlgLsx rs rx _ cnd => access rs [rx] cnd
  | .stlgRgsi sel _ => selection sel
  | .stlgRgsd sel _ => selection sel
  | .stshLsd rs _ cnd => access rs [] cnd
  | .stshLso rs _ _ cnd => access rs [] cnd
  | .stshLsu rs _ _ cnd => access rs [] cnd
  | .stshLsr rs _ ru cnd => access rs [ru] cnd
  | .stshLsx rs rx _ cnd => access rs [rx] cnd
  | .stshRgsi sel _ => selection sel
  | .stshRgsd sel _ => selection sel
  | .brnc _ _ => true
  | .brcr _ _ => true
  | .brno _ _ => true
  | .brof _ _ => true
  | .brnz _ _ => true
  | .brzr _ _ => true
  | .brps _ _ => true
  | .brng _ _ => true
  | .brls _ _ => true
  | .brhi _ _ => true
  | .brlo _ _ => true
  | .brge _ _ => true
  | .brle _ _ => true
  | .brgt _ _ => true
  | .brlc _ => true
  | .jumpImp => true
  | .jpsrImp => true
  | .rtsr => true
  | .rtir => true
  | .stop => true
  | .svpc => true
  | .rspc => true
  | .stie => true
  | .clie => true
  | .rsie => true
  | .scie => true
  | .jumpJa _ => true
  | .jpsrJa _ => true

end Sys2Proof
end

