-- ==== Sys2Proof/Decode.lean ====
section
/-! DEFINITION. Decoding and encoding of the 32-bit instruction words (30_encoding.md R90 to R104). -/

namespace Sys2Proof

/-- Why a byte sequence is no instruction. -/
inductive DecodeError where
  /-- Fewer than the four bytes of an instruction word are left (30_encoding.md R90). -/
  | truncated (left : Nat)
  /-- The word matches no row of the opcode table (30_encoding.md R103). -/
  | unassigned (w : Word)
  deriving DecidableEq, Repr

/-! ### Codes of the operand names -/

/-- The 5-bit code of a register (10_state.md R20). -/
def Reg.code : Reg → BitVec 5
  | .gpr n => BitVec.ofNat 5 n.val
  | .lc => 24
  | .cc => 25
  | .cs => 26
  | .ep => 27
  | .ta => 28
  | .sa => 29
  | .ia => 30
  | .id => 31

/-- The special registers in code order, 24 to 31. -/
def Reg.special (k : Nat) : Reg :=
  match k with
  | 0 => .lc
  | 1 => .cc
  | 2 => .cs
  | 3 => .ep
  | 4 => .ta
  | 5 => .sa
  | 6 => .ia
  | _ => .id

/-- The register with a 5-bit code (10_state.md R20). -/
def Reg.ofCode (c : BitVec 5) : Reg :=
  if h : c.toNat < 24 then .gpr ⟨c.toNat, h⟩ else Reg.special (c.toNat - 24)

/-- The 4-bit An code (10_state.md R21). -/
def AReg.code (an : AReg) : BitVec 4 := BitVec.ofFin an

/-- The 4-bit CND code (40_operands_and_conditions.md R131). -/
def Cond.code : Cond → BitVec 4
  | .inc => 0
  | .icr => 1
  | .ino => 2
  | .iof => 3
  | .inz => 4
  | .izr => 5
  | .ips => 6
  | .ing => 7
  | .ils => 8
  | .ihi => 9
  | .ilo => 10
  | .ige => 11
  | .ile => 12
  | .igt => 13
  | .undef => 14
  | .alw => 15

/-- The condition with a 4-bit code (40_operands_and_conditions.md R131). -/
def Cond.ofCode (c : BitVec 4) : Cond :=
  match c.toNat with
  | 0 => .inc
  | 1 => .icr
  | 2 => .ino
  | 3 => .iof
  | 4 => .inz
  | 5 => .izr
  | 6 => .ips
  | 7 => .ing
  | 8 => .ils
  | 9 => .ihi
  | 10 => .ilo
  | 11 => .ige
  | 12 => .ile
  | 13 => .igt
  | 14 => .undef
  | _ => .alw

/-! ### Fields of an instruction word (30_encoding.md R91) -/

namespace WordField

/-- CND at [31:28]. -/
def cnd (w : Word) : Cond := Cond.ofCode (w.extractLsb' 28 4)

/-- Rs, Rs0, Rx, Ru at [20:16]. -/
def first (w : Word) : Reg := Reg.ofCode (w.extractLsb' 16 5)

/-- Rd of move, mfdp and computation at [15:11]. -/
def dest (w : Word) : Reg := Reg.ofCode (w.extractLsb' 11 5)

/-- Rs1, and the register a load or store transfers, at [10:6]. -/
def second (w : Word) : Reg := Reg.ofCode (w.extractLsb' 6 5)

/-- An at [14:11]. -/
def an (w : Word) : AReg := (w.extractLsb' 11 4).toFin

/-- SHC5U, BTI5U at [20:16]. -/
def k5 (w : Word) : BitVec 5 := w.extractLsb' 16 5

/-- C12U, DO12S, AU12S at [27:16]. -/
def k12 (w : Word) : BitVec 12 := w.extractLsb' 16 12

/-- C16U, C16S, and C32U[31:16], at [31:16]. -/
def k16 (w : Word) : BitVec 16 := w.extractLsb' 16 16

/-- C17S in coding A: [31:16] hold bits 15..0, [3] holds bit 16 (30_encoding.md R94). -/
def c17a (w : Word) : BitVec 17 := w.extractLsb' 3 1 ++ w.extractLsb' 16 16

/-- C17S in coding B: [27:16] hold bits 11..0, [9:6] bits 15..12, [3] bit 16 (30_encoding.md R94). -/
def c17b (w : Word) : BitVec 17 := w.extractLsb' 3 1 ++ w.extractLsb' 6 4 ++ w.extractLsb' 16 12

/-- DA16S: [27:16] hold bits 11..0, [14:11] bits 15..12 (30_encoding.md R95). -/
def da16 (w : Word) : BitVec 16 := w.extractLsb' 11 4 ++ w.extractLsb' 16 12

/-- The 19 RGS flags, [31:28], [25:16], [10:6] (30_encoding.md R97, R108). -/
def rgs (w : Word) : BitVec 19 := w.extractLsb' 28 4 ++ w.extractLsb' 16 10 ++ w.extractLsb' 6 5

/-- The selection of a `(An)+` form: SA is the leftmost flag (30_encoding.md R97). -/
def rgsUp (w : Word) : RegSel := (rgs w).reverse

/-- The selection of a `-(An)` form: RV is the leftmost flag (30_encoding.md R97). -/
def rgsDown (w : Word) : RegSel := rgs w

/-- IO16S[15:2] at [23:10]. -/
def io14 (w : Word) : BitVec 14 := w.extractLsb' 10 14

/-- S at [9]. -/
def hint (w : Word) : Bool := w.getLsbD 9

/-- IA29U[28:2] at [31:5]. -/
def ia27 (w : Word) : BitVec 27 := w.extractLsb' 5 27

end WordField

/-! ### The opcode table (30_encoding.md R102) -/

/-- One row of the opcode table: a word is of this row exactly when `w &&& mask = pattern`; `build` reads its
fields. -/
structure Row where
  pattern : Word
  mask : Word
  build : Word → Instr

/-- Whether a word is of a row (30_encoding.md R93). -/
def Row.accepts (r : Row) (w : Word) : Bool := w &&& r.mask == r.pattern

open WordField

/-- The register forms of computation and debug-port transfer (rows 1 to 37). -/
def computeRows : List Row := [
  { pattern := 0x02000000, mask := 0x0FE0003F, build := fun w => .subfTri (first w) (second w) (dest w) (cnd w) },
  { pattern := 0x02000008, mask := 0x0FE0003F, build := fun w => .addtTri (first w) (second w) (dest w) (cnd w) },
  { pattern := 0x02000010, mask := 0x0FE0003F, build := fun w => .subcTri (first w) (second w) (dest w) (cnd w) },
  { pattern := 0x02000018, mask := 0x0FE0003F, build := fun w => .addcTri (first w) (second w) (dest w) (cnd w) },
  { pattern := 0x02000028, mask := 0x0FE0003F, build := fun w => .andbTri (first w) (second w) (dest w) (cnd w) },
  { pattern := 0x02000030, mask := 0x0FE0003F, build := fun w => .iorbTri (first w) (second w) (dest w) (cnd w) },
  { pattern := 0x02000038, mask := 0x0FE0003F, build := fun w => .xorbTri (first w) (second w) (dest w) (cnd w) },
  { pattern := 0x00000000, mask := 0x0FE0003F, build := fun w => .mult (first w) (second w) (dest w) (cnd w) },
  { pattern := 0x00000010, mask := 0x0FE0003F, build := fun w => .mlhu (first w) (second w) (dest w) (cnd w) },
  { pattern := 0x00000018, mask := 0x0FE0003F, build := fun w => .mlhs (first w) (second w) (dest w) (cnd w) },
  { pattern := 0x04000000, mask := 0x0FE007FF, build := fun w => .moveDual (first w) (dest w) (cnd w) },
  { pattern := 0x04000010, mask := 0x0FE007FF, build := fun w => .negt (first w) (dest w) (cnd w) },
  { pattern := 0x04000018, mask := 0x0FE007FF, build := fun w => .absl (first w) (dest w) (cnd w) },
  { pattern := 0x04000020, mask := 0x0FE007FF, build := fun w => .invt (first w) (dest w) (cnd w) },
  { pattern := 0x04000028, mask := 0x0FE007FF, build := fun w => .clzr (first w) (dest w) (cnd w) },
  { pattern := 0x04000030, mask := 0x0FE007FF, build := fun w => .ibos (first w) (dest w) (cnd w) },
  { pattern := 0x04000038, mask := 0x0FE007FF, build := fun w => .ibol (first w) (dest w) (cnd w) },
  { pattern := 0x08000000, mask := 0x0FE0003F, build := fun w => .shlzK5 (k5 w) (second w) (dest w) (cnd w) },
  { pattern := 0x0A000000, mask := 0x0FE0003F, build := fun w => .shlzTri (first w) (second w) (dest w) (cnd w) },
  { pattern := 0x08000008, mask := 0x0FE0003F, build := fun w => .shruK5 (k5 w) (second w) (dest w) (cnd w) },
  { pattern := 0x0A000008, mask := 0x0FE0003F, build := fun w => .shruTri (first w) (second w) (dest w) (cnd w) },
  { pattern := 0x08000010, mask := 0x0FE0003F, build := fun w => .shlfK5 (k5 w) (second w) (dest w) (cnd w) },
  { pattern := 0x0A000010, mask := 0x0FE0003F, build := fun w => .shlfTri (first w) (second w) (dest w) (cnd w) },
  { pattern := 0x08000018, mask := 0x0FE0003F, build := fun w => .shrsK5 (k5 w) (second w) (dest w) (cnd w) },
  { pattern := 0x0A000018, mask := 0x0FE0003F, build := fun w => .shrsTri (first w) (second w) (dest w) (cnd w) },
  { pattern := 0x08000020, mask := 0x0FE0003F, build := fun w => .btclK5 (k5 w) (second w) (dest w) (cnd w) },
  { pattern := 0x0A000020, mask := 0x0FE0003F, build := fun w => .btclTri (first w) (second w) (dest w) (cnd w) },
  { pattern := 0x08000030, mask := 0x0FE0003F, build := fun w => .btstK5 (k5 w) (second w) (dest w) (cnd w) },
  { pattern := 0x0A000030, mask := 0x0FE0003F, build := fun w => .btstTri (first w) (second w) (dest w) (cnd w) },
  { pattern := 0x08000038, mask := 0x0FE0003F, build := fun w => .bttgK5 (k5 w) (second w) (dest w) (cnd w) },
  { pattern := 0x0A000038, mask := 0x0FE0003F, build := fun w => .bttgTri (first w) (second w) (dest w) (cnd w) },
  { pattern := 0x08000028, mask := 0x0FE0F83F, build := fun w => .bttsK5t (k5 w) (second w) (cnd w) },
  { pattern := 0x0A000028, mask := 0x0FE0F83F, build := fun w => .bttsTrit (first w) (second w) (cnd w) },
  { pattern := 0x0E000000, mask := 0xFFE0F83F, build := fun w => .compCmpr (first w) (second w) },
  { pattern := 0x0E000010, mask := 0xFFE0F83F, build := fun w => .cmpcCmpr (first w) (second w) },
  { pattern := 0x0C000000, mask := 0xFFE0FFFF, build := fun w => .mtdp (first w) },
  { pattern := 0x0C000008, mask := 0xFFFF07FF, build := fun w => .mfdp (dest w) }]

/-- The constant forms of computation and move (rows 38 to 52). -/
def constantRows : List Row := [
  { pattern := 0x00000001, mask := 0x0000003F, build := fun w => .subfK12 (k12 w) (second w) (dest w) (cnd w) },
  { pattern := 0x00000009, mask := 0x0000003F, build := fun w => .addtK12 (k12 w) (second w) (dest w) (cnd w) },
  { pattern := 0x00000011, mask := 0x0000003F, build := fun w => .subcK12 (k12 w) (second w) (dest w) (cnd w) },
  { pattern := 0x00000019, mask := 0x0000003F, build := fun w => .addcK12 (k12 w) (second w) (dest w) (cnd w) },
  { pattern := 0x00000021, mask := 0x00000437, build := fun w => .moveK17m (c17b w) (dest w) (cnd w) },
  { pattern := 0x00000002, mask := 0x0000003F, build := fun w => .subfK16 (k16 w) (second w) (dest w) },
  { pattern := 0x0000000A, mask := 0x0000003F, build := fun w => .addtK16 (k16 w) (second w) (dest w) },
  { pattern := 0x0000002A, mask := 0x0000003F, build := fun w => .andbK16 (k16 w) (second w) (dest w) },
  { pattern := 0x00000032, mask := 0x0000003F, build := fun w => .iorbK16 (k16 w) (second w) (dest w) },
  { pattern := 0x0000003A, mask := 0x0000003F, build := fun w => .xorbK16 (k16 w) (second w) (dest w) },
  { pattern := 0x0000001A, mask := 0x0000003F, build := fun w => .addh (k16 w) (second w) (dest w) },
  { pattern := 0x00000003, mask := 0x0000003F, build := fun w => .mlcu (k16 w) (second w) (dest w) },
  { pattern := 0x0000000B, mask := 0x0000003F, build := fun w => .mlcs (k16 w) (second w) (dest w) },
  { pattern := 0x00000023, mask := 0x0000F837, build := fun w => .compK17c (c17a w) (second w) },
  { pattern := 0x00000033, mask := 0x0000F837, build := fun w => .cmpcK17c (c17a w) (second w) }]

/-- The loads (rows 53 to 87). -/
def loadRows : List Row := [
  { pattern := 0x00000004, mask := 0x0000803F, build := fun w => .ldbzLsd (da16 w) (second w) (cnd w) },
  { pattern := 0x00008004, mask := 0x0000803F, build := fun w => .ldbzLso (k12 w) (an w) (second w) (cnd w) },
  { pattern := 0x00000005, mask := 0x0000803F, build := fun w => .ldbzLsu (an w) (k12 w) (second w) (cnd w) },
  { pattern := 0x00008005, mask := 0x0FE0803F, build := fun w => .ldbzLsr (an w) (first w) (second w) (cnd w) },
  { pattern := 0x04008005, mask := 0x0FE0803F, build := fun w => .ldbzLsx (first w) (an w) (second w) (cnd w) },
  { pattern := 0x08008005, mask := 0x0C00803F, build := fun w => .ldbzRgsi (an w) (rgsUp w) },
  { pattern := 0x0C008005, mask := 0x0C00803F, build := fun w => .ldbzRgsd (an w) (rgsDown w) },
  { pattern := 0x0000000C, mask := 0x0000803F, build := fun w => .ldbsLsd (da16 w) (second w) (cnd w) },
  { pattern := 0x0000800C, mask := 0x0000803F, build := fun w => .ldbsLso (k12 w) (an w) (second w) (cnd w) },
  { pattern := 0x0000000D, mask := 0x0000803F, build := fun w => .ldbsLsu (an w) (k12 w) (second w) (cnd w) },
  { pattern := 0x0000800D, mask := 0x0FE0803F, build := fun w => .ldbsLsr (an w) (first w) (second w) (cnd w) },
  { pattern := 0x0400800D, mask := 0x0FE0803F, build := fun w => .ldbsLsx (first w) (an w) (second w) (cnd w) },
  { pattern := 0x0800800D, mask := 0x0C00803F, build := fun w => .ldbsRgsi (an w) (rgsUp w) },
  { pattern := 0x0C00800D, mask := 0x0C00803F, build := fun w => .ldbsRgsd (an w) (rgsDown w) },
  { pattern := 0x00000014, mask := 0x0000803F, build := fun w => .ldszLsd (da16 w) (second w) (cnd w) },
  { pattern := 0x00008014, mask := 0x0000803F, build := fun w => .ldszLso (k12 w) (an w) (second w) (cnd w) },
  { pattern := 0x00000015, mask := 0x0000803F, build := fun w => .ldszLsu (an w) (k12 w) (second w) (cnd w) },
  { pattern := 0x00008015, mask := 0x0FE0803F, build := fun w => .ldszLsr (an w) (first w) (second w) (cnd w) },
  { pattern := 0x04008015, mask := 0x0FE0803F, build := fun w => .ldszLsx (first w) (an w) (second w) (cnd w) },
  { pattern := 0x08008015, mask := 0x0C00803F, build := fun w => .ldszRgsi (an w) (rgsUp w) },
  { pattern := 0x0C008015, mask := 0x0C00803F, build := fun w => .ldszRgsd (an w) (rgsDown w) },
  { pattern := 0x0000001C, mask := 0x0000803F, build := fun w => .ldssLsd (da16 w) (second w) (cnd w) },
  { pattern := 0x0000801C, mask := 0x0000803F, build := fun w => .ldssLso (k12 w) (an w) (second w) (cnd w) },
  { pattern := 0x0000001D, mask := 0x0000803F, build := fun w => .ldssLsu (an w) (k12 w) (second w) (cnd w) },
  { pattern := 0x0000801D, mask := 0x0FE0803F, build := fun w => .ldssLsr (an w) (first w) (second w) (cnd w) },
  { pattern := 0x0400801D, mask := 0x0FE0803F, build := fun w => .ldssLsx (first w) (an w) (second w) (cnd w) },
  { pattern := 0x0800801D, mask := 0x0C00803F, build := fun w => .ldssRgsi (an w) (rgsUp w) },
  { pattern := 0x0C00801D, mask := 0x0C00803F, build := fun w => .ldssRgsd (an w) (rgsDown w) },
  { pattern := 0x00000024, mask := 0x0000803F, build := fun w => .ldlgLsd (da16 w) (second w) (cnd w) },
  { pattern := 0x00008024, mask := 0x0000803F, build := fun w => .ldlgLso (k12 w) (an w) (second w) (cnd w) },
  { pattern := 0x00000025, mask := 0x0000803F, build := fun w => .ldlgLsu (an w) (k12 w) (second w) (cnd w) },
  { pattern := 0x00008025, mask := 0x0FE0803F, build := fun w => .ldlgLsr (an w) (first w) (second w) (cnd w) },
  { pattern := 0x04008025, mask := 0x0FE0803F, build := fun w => .ldlgLsx (first w) (an w) (second w) (cnd w) },
  { pattern := 0x08008025, mask := 0x0C00803F, build := fun w => .ldlgRgsi (an w) (rgsUp w) },
  { pattern := 0x0C008025, mask := 0x0C00803F, build := fun w => .ldlgRgsd (an w) (rgsDown w) }]

/-- The stores (rows 88 to 108). -/
def storeRows : List Row := [
  { pattern := 0x0000002C, mask := 0x0000803F, build := fun w => .stbtLsd (second w) (da16 w) (cnd w) },
  { pattern := 0x0000802C, mask := 0x0000803F, build := fun w => .stbtLso (second w) (k12 w) (an w) (cnd w) },
  { pattern := 0x0000002D, mask := 0x0000803F, build := fun w => .stbtLsu (second w) (an w) (k12 w) (cnd w) },
  { pattern := 0x0000802D, mask := 0x0FE0803F, build := fun w => .stbtLsr (second w) (an w) (first w) (cnd w) },
  { pattern := 0x0400802D, mask := 0x0FE0803F, build := fun w => .stbtLsx (second w) (first w) (an w) (cnd w) },
  { pattern := 0x0800802D, mask := 0x0C00803F, build := fun w => .stbtRgsi (rgsUp w) (an w) },
  { pattern := 0x0C00802D, mask := 0x0C00803F, build := fun w => .stbtRgsd (rgsDown w) (an w) },
  { pattern := 0x00000034, mask := 0x0000803F, build := fun w => .stlgLsd (second w) (da16 w) (cnd w) },
  { pattern := 0x00008034, mask := 0x0000803F, build := fun w => .stlgLso (second w) (k12 w) (an w) (cnd w) },
  { pattern := 0x00000035, mask := 0x0000803F, build := fun w => .stlgLsu (second w) (an w) (k12 w) (cnd w) },
  { pattern := 0x00008035, mask := 0x0FE0803F, build := fun w => .stlgLsr (second w) (an w) (first w) (cnd w) },
  { pattern := 0x04008035, mask := 0x0FE0803F, build := fun w => .stlgLsx (second w) (first w) (an w) (cnd w) },
  { pattern := 0x08008035, mask := 0x0C00803F, build := fun w => .stlgRgsi (rgsUp w) (an w) },
  { pattern := 0x0C008035, mask := 0x0C00803F, build := fun w => .stlgRgsd (rgsDown w) (an w) },
  { pattern := 0x0000003C, mask := 0x0000803F, build := fun w => .stshLsd (second w) (da16 w) (cnd w) },
  { pattern := 0x0000803C, mask := 0x0000803F, build := fun w => .stshLso (second w) (k12 w) (an w) (cnd w) },
  { pattern := 0x0000003D, mask := 0x0000803F, build := fun w => .stshLsu (second w) (an w) (k12 w) (cnd w) },
  { pattern := 0x0000803D, mask := 0x0FE0803F, build := fun w => .stshLsr (second w) (an w) (first w) (cnd w) },
  { pattern := 0x0400803D, mask := 0x0FE0803F, build := fun w => .stshLsx (second w) (first w) (an w) (cnd w) },
  { pattern := 0x0800803D, mask := 0x0C00803F, build := fun w => .stshRgsi (rgsUp w) (an w) },
  { pattern := 0x0C00803D, mask := 0x0C00803F, build := fun w => .stshRgsd (rgsDown w) (an w) }]

/-- The flow control and debug (rows 109 to 136). -/
def flowRows : List Row := [
  { pattern := 0x00000106, mask := 0xFF0001FF, build := fun w => .brnc (io14 w) (hint w) },
  { pattern := 0x00000116, mask := 0xFF0001FF, build := fun w => .brcr (io14 w) (hint w) },
  { pattern := 0x00000126, mask := 0xFF0001FF, build := fun w => .brno (io14 w) (hint w) },
  { pattern := 0x00000136, mask := 0xFF0001FF, build := fun w => .brof (io14 w) (hint w) },
  { pattern := 0x00000146, mask := 0xFF0001FF, build := fun w => .brnz (io14 w) (hint w) },
  { pattern := 0x00000156, mask := 0xFF0001FF, build := fun w => .brzr (io14 w) (hint w) },
  { pattern := 0x00000166, mask := 0xFF0001FF, build := fun w => .brps (io14 w) (hint w) },
  { pattern := 0x00000176, mask := 0xFF0001FF, build := fun w => .brng (io14 w) (hint w) },
  { pattern := 0x00000186, mask := 0xFF0001FF, build := fun w => .brls (io14 w) (hint w) },
  { pattern := 0x00000196, mask := 0xFF0001FF, build := fun w => .brhi (io14 w) (hint w) },
  { pattern := 0x000001A6, mask := 0xFF0001FF, build := fun w => .brlo (io14 w) (hint w) },
  { pattern := 0x000001B6, mask := 0xFF0001FF, build := fun w => .brge (io14 w) (hint w) },
  { pattern := 0x000001C6, mask := 0xFF0001FF, build := fun w => .brle (io14 w) (hint w) },
  { pattern := 0x000001D6, mask := 0xFF0001FF, build := fun w => .brgt (io14 w) (hint w) },
  { pattern := 0x000001E6, mask := 0xFF0003FF, build := fun w => .brlc (io14 w) },
  { pattern := 0x00000006, mask := 0xFFFFFFFF, build := fun _ => .jumpImp },
  { pattern := 0x00000016, mask := 0xFFFFFFFF, build := fun _ => .jpsrImp },
  { pattern := 0x00000026, mask := 0xFFFFFFFF, build := fun _ => .rtsr },
  { pattern := 0x00000036, mask := 0xFFFFFFFF, build := fun _ => .rtir },
  { pattern := 0x00000046, mask := 0xFFFFFFFF, build := fun _ => .stop },
  { pattern := 0x00000066, mask := 0xFFFFFFFF, build := fun _ => .svpc },
  { pattern := 0x00000076, mask := 0xFFFFFFFF, build := fun _ => .rspc },
  { pattern := 0x00000086, mask := 0xFFFFFFFF, build := fun _ => .stie },
  { pattern := 0x00000096, mask := 0xFFFFFFFF, build := fun _ => .clie },
  { pattern := 0x000000A6, mask := 0xFFFFFFFF, build := fun _ => .rsie },
  { pattern := 0x000000B6, mask := 0xFFFFFFFF, build := fun _ => .scie },
  { pattern := 0x0000000E, mask := 0x0000001F, build := fun w => .jumpJa (ia27 w) },
  { pattern := 0x0000001E, mask := 0x0000001F, build := fun w => .jpsrJa (ia27 w) }]

/-- The 136 rows (30_encoding.md R102). They are pairwise disjoint, so their order does not matter (R93). -/
def opcodeTable : List Row := computeRows ++ constantRows ++ loadRows ++ storeRows ++ flowRows

/-- Decoding of a word (30_encoding.md R93); a word of no row is refused by name. -/
def decode (w : Word) : Except DecodeError Instr :=
  match opcodeTable.find? (·.accepts w) with
  | some r => .ok (r.build w)
  | none => .error (.unassigned w)

/-- The instruction word in four bytes, lowest address first (20_memory.md R64). -/
def wordOfBytes (b0 b1 b2 b3 : Byte) : Word := b3 ++ b2 ++ b1 ++ b0

/-- Byte k of a word, byte 0 at the lowest address (20_memory.md R63, R64). -/
def byteOfWord (w : Word) (k : Nat) : Byte := w.extractLsb' (8 * k) 8

/-- Decoding of a byte sequence: the instruction at its start and the rest. Total: what is no instruction is
refused by name. -/
def decodeBytes : List Byte → Except DecodeError (Instr × List Byte)
  | b0 :: b1 :: b2 :: b3 :: rest =>
    match decode (wordOfBytes b0 b1 b2 b3) with
    | .ok i => .ok (i, rest)
    | .error e => .error e
  | short => .error (.truncated short.length)

/-- The bytes of a word as instruction memory holds them (20_memory.md R64). -/
def bytesOfWord (w : Word) : List Byte := [byteOfWord w 0, byteOfWord w 1, byteOfWord w 2, byteOfWord w 3]

/-- The instruction the decoder reads from the `nbits` low bits of `w`, every bit above them 0. -/
def decodeTableWord (nbits w : Nat) : Option Instr :=
  match decodeBytes (bytesOfWord (BitVec.ofNat 32 (w % 2 ^ nbits))) with
  | .ok (i, _) => some i
  | .error _ => none

/-! ### Encoding, from the formats of 30_encoding.md R101 -/

namespace Format

/-- TRI: CND, fixed [27:21], Rs0, Rd, Rs1, op. -/
def tri (fixed : BitVec 7) (op : BitVec 6) (rs0 rs1 rd : Reg) (cnd : Cond) : Word :=
  cnd.code ++ fixed ++ rs0.code ++ rd.code ++ rs1.code ++ op

/-- TRIT: TRI with the Rd position zero. -/
def trit (fixed : BitVec 7) (op : BitVec 6) (rs0 rs1 : Reg) (cnd : Cond) : Word :=
  cnd.code ++ fixed ++ rs0.code ++ 0#5 ++ rs1.code ++ op

/-- DUAL: CND, fixed, Rs, Rd, zeros, op. -/
def dual (op : BitVec 6) (rs rd : Reg) (cnd : Cond) : Word :=
  cnd.code ++ 0b0100000#7 ++ rs.code ++ rd.code ++ 0#5 ++ op

/-- K5: TRI with a 5-bit constant in the Rs0 position. -/
def k5 (op : BitVec 6) (k : BitVec 5) (rs1 rd : Reg) (cnd : Cond) : Word :=
  cnd.code ++ 0b1000000#7 ++ k ++ rd.code ++ rs1.code ++ op

/-- K5T: K5 with the Rd position zero. -/
def k5t (op : BitVec 6) (k : BitVec 5) (rs1 : Reg) (cnd : Cond) : Word :=
  cnd.code ++ 0b1000000#7 ++ k ++ 0#5 ++ rs1.code ++ op

/-- CMPR: no CND, no Rd. -/
def cmpr (op : BitVec 6) (rs0 rs1 : Reg) : Word :=
  0#4 ++ 0b1110000#7 ++ rs0.code ++ 0#5 ++ rs1.code ++ op

/-- DPS: mtdp. -/
def dps (rs : Reg) : Word := 0#4 ++ 0b1100000#7 ++ rs.code ++ 0#16

/-- DPD: mfdp. -/
def dpd (rd : Reg) : Word := 0#4 ++ 0b1100000#7 ++ 0#5 ++ rd.code ++ 0#5 ++ 0b001000#6

/-- K12: CND, C12U, Rd, Rs1, op. -/
def k12 (op : BitVec 6) (c : BitVec 12) (rs1 rd : Reg) (cnd : Cond) : Word :=
  cnd.code ++ c ++ rd.code ++ rs1.code ++ op

/-- K17M: move with C17S in coding B. -/
def k17m (c : BitVec 17) (rd : Reg) (cnd : Cond) : Word :=
  cnd.code ++ c.extractLsb' 0 12 ++ rd.code ++ 0#1 ++ c.extractLsb' 12 4 ++ 0b10#2 ++ c.extractLsb' 16 1 ++ 0b001#3

/-- K16 and K32: a 16-bit constant in [31:16]. -/
def k16 (op : BitVec 6) (c : BitVec 16) (rs1 rd : Reg) : Word := c ++ rd.code ++ rs1.code ++ op

/-- K17C: comp (t = 0) and cmpc (t = 1) with C17S in coding A. -/
def k17c (t : BitVec 1) (c : BitVec 17) (rs1 : Reg) : Word :=
  c.extractLsb' 0 16 ++ 0#5 ++ rs1.code ++ 1#1 ++ t ++ c.extractLsb' 16 1 ++ 0b011#3

/-- LSD: direct data address. -/
def lsd (type : BitVec 3) (da : BitVec 16) (reg : Reg) (cnd : Cond) : Word :=
  cnd.code ++ da.extractLsb' 0 12 ++ 0#1 ++ da.extractLsb' 12 4 ++ reg.code ++ type ++ 0b100#3

/-- LSO: `(DO12S,An)`. -/
def lso (type : BitVec 3) (dof : BitVec 12) (an : AReg) (reg : Reg) (cnd : Cond) : Word :=
  cnd.code ++ dof ++ 1#1 ++ an.code ++ reg.code ++ type ++ 0b100#3

/-- LSU: `(An,AU12S)*`. -/
def lsu (type : BitVec 3) (an : AReg) (au : BitVec 12) (reg : Reg) (cnd : Cond) : Word :=
  cnd.code ++ au ++ 0#1 ++ an.code ++ reg.code ++ type ++ 0b101#3

/-- LSR: `(An,Ru)*`. -/
def lsr (type : BitVec 3) (an : AReg) (ru reg : Reg) (cnd : Cond) : Word :=
  cnd.code ++ 0b0000000#7 ++ ru.code ++ 1#1 ++ an.code ++ reg.code ++ type ++ 0b101#3

/-- LSX: `(Rx,An)`. -/
def lsx (type : BitVec 3) (rx : Reg) (an : AReg) (reg : Reg) (cnd : Cond) : Word :=
  cnd.code ++ 0b0100000#7 ++ rx.code ++ 1#1 ++ an.code ++ reg.code ++ type ++ 0b101#3

/-- RGSI and RGSD: the 19 flags around the mode bits [27:26] (30_encoding.md R97). -/
def rgs (mode : BitVec 2) (type : BitVec 3) (an : AReg) (flags : BitVec 19) : Word :=
  flags.extractLsb' 15 4 ++ mode ++ flags.extractLsb' 5 10 ++ 1#1 ++ an.code ++ flags.extractLsb' 0 5 ++ type
    ++ 0b101#3

/-- RGSI: `(An)+`. -/
def rgsUp (type : BitVec 3) (an : AReg) (sel : RegSel) : Word := rgs 0b10 type an sel.reverse

/-- RGSD: `-(An)`. -/
def rgsDown (type : BitVec 3) (an : AReg) (sel : RegSel) : Word := rgs 0b11 type an sel

/-- BR: the conditional branch with condition number `k`. -/
def br (k : BitVec 4) (off : BitVec 14) (hint : Bool) : Word :=
  0#8 ++ off ++ BitVec.ofBool hint ++ 1#1 ++ k ++ 0b0110#4

/-- IMP: the implied forms by their code at [7:4]. -/
def imp (k : BitVec 4) : Word := 0#24 ++ k ++ 0b0110#4

/-- JA: jump (j = 0) and jpsr (j = 1) with IA29U. -/
def ja (j : BitVec 1) (ia : BitVec 27) : Word := ia ++ j ++ 0b1110#4

end Format

/-- The word of an instruction, from the formats and the opcode map (30_encoding.md R92, R101). -/
def encode : Instr → Word
  | .subfTri rs0 rs1 rd cnd => Format.tri 0b0010000 0b000000 rs0 rs1 rd cnd
  | .addtTri rs0 rs1 rd cnd => Format.tri 0b0010000 0b001000 rs0 rs1 rd cnd
  | .subcTri rs0 rs1 rd cnd => Format.tri 0b0010000 0b010000 rs0 rs1 rd cnd
  | .addcTri rs0 rs1 rd cnd => Format.tri 0b0010000 0b011000 rs0 rs1 rd cnd
  | .andbTri rs0 rs1 rd cnd => Format.tri 0b0010000 0b101000 rs0 rs1 rd cnd
  | .iorbTri rs0 rs1 rd cnd => Format.tri 0b0010000 0b110000 rs0 rs1 rd cnd
  | .xorbTri rs0 rs1 rd cnd => Format.tri 0b0010000 0b111000 rs0 rs1 rd cnd
  | .mult rs0 rs1 rd cnd => Format.tri 0b0000000 0b000000 rs0 rs1 rd cnd
  | .mlhu rs0 rs1 rd cnd => Format.tri 0b0000000 0b010000 rs0 rs1 rd cnd
  | .mlhs rs0 rs1 rd cnd => Format.tri 0b0000000 0b011000 rs0 rs1 rd cnd
  | .moveDual rs rd cnd => Format.dual 0b000000 rs rd cnd
  | .negt rs rd cnd => Format.dual 0b010000 rs rd cnd
  | .absl rs rd cnd => Format.dual 0b011000 rs rd cnd
  | .invt rs rd cnd => Format.dual 0b100000 rs rd cnd
  | .clzr rs rd cnd => Format.dual 0b101000 rs rd cnd
  | .ibos rs rd cnd => Format.dual 0b110000 rs rd cnd
  | .ibol rs rd cnd => Format.dual 0b111000 rs rd cnd
  | .shlzK5 k rs1 rd cnd => Format.k5 0b000000 k rs1 rd cnd
  | .shlzTri rs0 rs1 rd cnd => Format.tri 0b1010000 0b000000 rs0 rs1 rd cnd
  | .shruK5 k rs1 rd cnd => Format.k5 0b001000 k rs1 rd cnd
  | .shruTri rs0 rs1 rd cnd => Format.tri 0b1010000 0b001000 rs0 rs1 rd cnd
  | .shlfK5 k rs1 rd cnd => Format.k5 0b010000 k rs1 rd cnd
  | .shlfTri rs0 rs1 rd cnd => Format.tri 0b1010000 0b010000 rs0 rs1 rd cnd
  | .shrsK5 k rs1 rd cnd => Format.k5 0b011000 k rs1 rd cnd
  | .shrsTri rs0 rs1 rd cnd => Format.tri 0b1010000 0b011000 rs0 rs1 rd cnd
  | .btclK5 k rs1 rd cnd => Format.k5 0b100000 k rs1 rd cnd
  | .btclTri rs0 rs1 rd cnd => Format.tri 0b1010000 0b100000 rs0 rs1 rd cnd
  | .btstK5 k rs1 rd cnd => Format.k5 0b110000 k rs1 rd cnd
  | .btstTri rs0 rs1 rd cnd => Format.tri 0b1010000 0b110000 rs0 rs1 rd cnd
  | .bttgK5 k rs1 rd cnd => Format.k5 0b111000 k rs1 rd cnd
  | .bttgTri rs0 rs1 rd cnd => Format.tri 0b1010000 0b111000 rs0 rs1 rd cnd
  | .bttsK5t k rs1 cnd => Format.k5t 0b101000 k rs1 cnd
  | .bttsTrit rs0 rs1 cnd => Format.trit 0b1010000 0b101000 rs0 rs1 cnd
  | .compCmpr rs0 rs1 => Format.cmpr 0b000000 rs0 rs1
  | .cmpcCmpr rs0 rs1 => Format.cmpr 0b010000 rs0 rs1
  | .mtdp rs => Format.dps rs
  | .mfdp rd => Format.dpd rd
  | .subfK12 c rs1 rd cnd => Format.k12 0b000001 c rs1 rd cnd
  | .addtK12 c rs1 rd cnd => Format.k12 0b001001 c rs1 rd cnd
  | .subcK12 c rs1 rd cnd => Format.k12 0b010001 c rs1 rd cnd
  | .addcK12 c rs1 rd cnd => Format.k12 0b011001 c rs1 rd cnd
  | .moveK17m c rd cnd => Format.k17m c rd cnd
  | .subfK16 c rs1 rd => Format.k16 0b000010 c rs1 rd
  | .addtK16 c rs1 rd => Format.k16 0b001010 c rs1 rd
  | .andbK16 c rs1 rd => Format.k16 0b101010 c rs1 rd
  | .iorbK16 c rs1 rd => Format.k16 0b110010 c rs1 rd
  | .xorbK16 c rs1 rd => Format.k16 0b111010 c rs1 rd
  | .addh hi rs1 rd => Format.k16 0b011010 hi rs1 rd
  | .mlcu c rs1 rd => Format.k16 0b000011 c rs1 rd
  | .mlcs c rs1 rd => Format.k16 0b001011 c rs1 rd
  | .compK17c c rs1 => Format.k17c 0 c rs1
  | .cmpcK17c c rs1 => Format.k17c 1 c rs1
  | .ldbzLsd da rd cnd => Format.lsd 0b000 da rd cnd
  | .ldbzLso dof an rd cnd => Format.lso 0b000 dof an rd cnd
  | .ldbzLsu an au rd cnd => Format.lsu 0b000 an au rd cnd
  | .ldbzLsr an ru rd cnd => Format.lsr 0b000 an ru rd cnd
  | .ldbzLsx rx an rd cnd => Format.lsx 0b000 rx an rd cnd
  | .ldbzRgsi an sel => Format.rgsUp 0b000 an sel
  | .ldbzRgsd an sel => Format.rgsDown 0b000 an sel
  | .ldbsLsd da rd cnd => Format.lsd 0b001 da rd cnd
  | .ldbsLso dof an rd cnd => Format.lso 0b001 dof an rd cnd
  | .ldbsLsu an au rd cnd => Format.lsu 0b001 an au rd cnd
  | .ldbsLsr an ru rd cnd => Format.lsr 0b001 an ru rd cnd
  | .ldbsLsx rx an rd cnd => Format.lsx 0b001 rx an rd cnd
  | .ldbsRgsi an sel => Format.rgsUp 0b001 an sel
  | .ldbsRgsd an sel => Format.rgsDown 0b001 an sel
  | .ldszLsd da rd cnd => Format.lsd 0b010 da rd cnd
  | .ldszLso dof an rd cnd => Format.lso 0b010 dof an rd cnd
  | .ldszLsu an au rd cnd => Format.lsu 0b010 an au rd cnd
  | .ldszLsr an ru rd cnd => Format.lsr 0b010 an ru rd cnd
  | .ldszLsx rx an rd cnd => Format.lsx 0b010 rx an rd cnd
  | .ldszRgsi an sel => Format.rgsUp 0b010 an sel
  | .ldszRgsd an sel => Format.rgsDown 0b010 an sel
  | .ldssLsd da rd cnd => Format.lsd 0b011 da rd cnd
  | .ldssLso dof an rd cnd => Format.lso 0b011 dof an rd cnd
  | .ldssLsu an au rd cnd => Format.lsu 0b011 an au rd cnd
  | .ldssLsr an ru rd cnd => Format.lsr 0b011 an ru rd cnd
  | .ldssLsx rx an rd cnd => Format.lsx 0b011 rx an rd cnd
  | .ldssRgsi an sel => Format.rgsUp 0b011 an sel
  | .ldssRgsd an sel => Format.rgsDown 0b011 an sel
  | .ldlgLsd da rd cnd => Format.lsd 0b100 da rd cnd
  | .ldlgLso dof an rd cnd => Format.lso 0b100 dof an rd cnd
  | .ldlgLsu an au rd cnd => Format.lsu 0b100 an au rd cnd
  | .ldlgLsr an ru rd cnd => Format.lsr 0b100 an ru rd cnd
  | .ldlgLsx rx an rd cnd => Format.lsx 0b100 rx an rd cnd
  | .ldlgRgsi an sel => Format.rgsUp 0b100 an sel
  | .ldlgRgsd an sel => Format.rgsDown 0b100 an sel
  | .stbtLsd rs da cnd => Format.lsd 0b101 da rs cnd
  | .stbtLso rs dof an cnd => Format.lso 0b101 dof an rs cnd
  | .stbtLsu rs an au cnd => Format.lsu 0b101 an au rs cnd
  | .stbtLsr rs an ru cnd => Format.lsr 0b101 an ru rs cnd
  | .stbtLsx rs rx an cnd => Format.lsx 0b101 rx an rs cnd
  | .stbtRgsi sel an => Format.rgsUp 0b101 an sel
  | .stbtRgsd sel an => Format.rgsDown 0b101 an sel
  | .stlgLsd rs da cnd => Format.lsd 0b110 da rs cnd
  | .stlgLso rs dof an cnd => Format.lso 0b110 dof an rs cnd
  | .stlgLsu rs an au cnd => Format.lsu 0b110 an au rs cnd
  | .stlgLsr rs an ru cnd => Format.lsr 0b110 an ru rs cnd
  | .stlgLsx rs rx an cnd => Format.lsx 0b110 rx an rs cnd
  | .stlgRgsi sel an => Format.rgsUp 0b110 an sel
  | .stlgRgsd sel an => Format.rgsDown 0b110 an sel
  | .stshLsd rs da cnd => Format.lsd 0b111 da rs cnd
  | .stshLso rs dof an cnd => Format.lso 0b111 dof an rs cnd
  | .stshLsu rs an au cnd => Format.lsu 0b111 an au rs cnd
  | .stshLsr rs an ru cnd => Format.lsr 0b111 an ru rs cnd
  | .stshLsx rs rx an cnd => Format.lsx 0b111 rx an rs cnd
  | .stshRgsi sel an => Format.rgsUp 0b111 an sel
  | .stshRgsd sel an => Format.rgsDown 0b111 an sel
  | .brnc off hint => Format.br 0b0000 off hint
  | .brcr off hint => Format.br 0b0001 off hint
  | .brno off hint => Format.br 0b0010 off hint
  | .brof off hint => Format.br 0b0011 off hint
  | .brnz off hint => Format.br 0b0100 off hint
  | .brzr off hint => Format.br 0b0101 off hint
  | .brps off hint => Format.br 0b0110 off hint
  | .brng off hint => Format.br 0b0111 off hint
  | .brls off hint => Format.br 0b1000 off hint
  | .brhi off hint => Format.br 0b1001 off hint
  | .brlo off hint => Format.br 0b1010 off hint
  | .brge off hint => Format.br 0b1011 off hint
  | .brle off hint => Format.br 0b1100 off hint
  | .brgt off hint => Format.br 0b1101 off hint
  | .brlc off => Format.br 0b1110 off false
  | .jumpImp => Format.imp 0b0000
  | .jpsrImp => Format.imp 0b0001
  | .rtsr => Format.imp 0b0010
  | .rtir => Format.imp 0b0011
  | .stop => Format.imp 0b0100
  | .svpc => Format.imp 0b0110
  | .rspc => Format.imp 0b0111
  | .stie => Format.imp 0b1000
  | .clie => Format.imp 0b1001
  | .rsie => Format.imp 0b1010
  | .scie => Format.imp 0b1011
  | .jumpJa ia => Format.ja 0 ia
  | .jpsrJa ia => Format.ja 1 ia

end Sys2Proof
end

