-- ==== Sys2Proof/Machine/Ops.lean ====
section
/-! DEFINITION. The named operations over memory, registers and the program counter; taking an interrupt and
returning from one. -/

namespace Sys2Proof.Machine

/-- The outcome of an instruction or a step. -/
abbrev Result := Host.Outcome State Fault Refusal

/-- The outcome of an operation that cannot go on. -/
def Stop.outcome : Stop → Result
  | .fault f => .fault f
  | .refusal r => .refused r

/-- Stop for the reason given, if there is one; else go on. -/
def unlessStopped (stop : Option Stop) (k : Result) : Result :=
  match stop with
  | some e => e.outcome
  | none => k

/-! ### One memory -/

/-- What an unlisted byte reads as, in both spaces. DESIGN CHOICE, unsafe (log 1): the spec gives memory no reset
content. -/
def Memory.unlisted : Byte := 0

/-- The byte listed for a key, or the unlisted value. -/
def Memory.lookup (k : Nat) : Memory → Byte
  | [] => Memory.unlisted
  | (j, b) :: rest => if j = k then b else Memory.lookup k rest

/-- Read one byte. -/
def Memory.read (m : Memory) (a : Word) : Byte := Memory.lookup a.toNat m

/-- Put a byte in front of a list whose addresses are all larger: nothing for the unlisted value. -/
def Memory.consByte (k : Nat) (b : Byte) (rest : Memory) : Memory :=
  if b = Memory.unlisted then rest else (k, b) :: rest

/-- Store a byte at a key, keeping the canonical form. -/
def Memory.store (k : Nat) (b : Byte) : Memory → Memory
  | [] => Memory.consByte k b []
  | (j, c) :: rest =>
    if k < j then Memory.consByte k b ((j, c) :: rest)
    else if k = j then Memory.consByte k b rest
    else (j, c) :: Memory.store k b rest

/-- Write one byte. -/
def Memory.write (m : Memory) (a : Word) (b : Byte) : Memory := Memory.store a.toNat b m

/-- The canonical form above a lower bound: addresses rise strictly, lie in the 32-bit space, and no listed byte is
what an unlisted one reads as. -/
def Memory.wfFrom : Nat → Memory → Bool
  | _, [] => true
  | lo, (j, b) :: rest =>
    decide (lo ≤ j) && decide (j < 2 ^ 32) && decide (b ≠ Memory.unlisted) && Memory.wfFrom (j + 1) rest

/-- The canonical form of a memory. -/
def Memory.wf (m : Memory) : Bool := Memory.wfFrom 0 m

/-! ### Sizes and alignment -/

/-- The bytes of an access (20_memory.md R66). -/
def Size.bytes : Size → Nat
  | .byte => 1
  | .short => 2
  | .long => 4

/-- The bytes of an access as a word. -/
def Size.word (sz : Size) : Word := BitVec.ofNat 32 sz.bytes

/-- The address an access touches: the low bits of a short or long access are ignored (20_memory.md R67). -/
def Size.align (sz : Size) (eda : Word) : Word :=
  match sz with
  | .byte => eda
  | .short => eda &&& 0xFFFFFFFE#32
  | .long => eda &&& 0xFFFFFFFC#32

/-- The byte addresses an access at `eda` touches, lowest first. -/
def Size.addresses (sz : Size) (eda : Word) : List Word :=
  (List.range sz.bytes).map fun i => sz.align eda + BitVec.ofNat 32 i

/-- Bits [1:0] cleared: instruction addresses are word aligned (10_state.md R47). -/
def wordAligned (a : Word) : Word := a &&& 0xFFFFFFFC#32

/-! ### The data address space -/

/-- Whether a region covers an address. -/
def regionCovers (base : Word) (size : Nat) (a : Word) : Bool := decide ((a - base).toNat < size)

/-- What a map puts at an address: the first region that covers it, else plain memory. -/
def regionKind (a : Word) : List Config.Region → Config.RegionKind
  | [] => .ram
  | r :: rest => if regionCovers r.base r.size a then r.kind else regionKind a rest

/-- The instruction address a data address reaches through the window of `IMEM_IN_DSPACE` (20_memory.md R78). -/
def State.codeAddr? (s : State) (a : Word) : Option Word :=
  match s.params.codeWindow with
  | some w => if regionCovers w.dataBase w.size a then some (w.codeBase + (a - w.dataBase)) else none
  | none => none

/-- The byte the memory behind a data address holds. -/
def State.dataByte (s : State) (a : Word) : Byte :=
  match s.codeAddr? a with
  | some c => s.imem.read c
  | none => s.dmem.read a

/-- What stands behind a data address (20_memory.md R72, R73, R78). -/
def State.regionAt (s : State) (a : Word) : Config.RegionKind :=
  match s.codeAddr? a with
  | some c => regionKind c s.params.codeMap
  | none => regionKind a s.params.dataMap

/-- The byte a load reads: what memory holds, or what a device gives, a free value (20_memory.md R72; log 25). -/
def State.readByte (s : State) (a : Word) : Byte :=
  if s.regionAt a = .device then Config.deviceByte s.draws a else s.dataByte a

/-- The memory behind a data address after one byte of it has been written. -/
def State.storeByte (s : State) (a : Word) (b : Byte) : State :=
  match s.codeAddr? a with
  | some c => { s with imem := s.imem.write c b }
  | none => { s with dmem := s.dmem.write a b }

/-- Write one byte of the data space: RAM takes it, ROM keeps what it holds, a device sees it on the bus (20_memory.md
R69, R72, R73; log 25). -/
def State.putByte (s : State) (a : Word) (b : Byte) : State :=
  if s.regionAt a = .ram then s.storeByte a b else s

/-- Why an access to one byte of the data space stops, if it does: a running program's store into the code window, or an
address outside every memory and device (20_memory.md R69, R73, R78). -/
def State.byteStop (s : State) (write : Bool) (a : Word) : Option Stop :=
  match s.codeAddr? a with
  | some c =>
    if write && !s.stopped then some (.refusal (.storeToCode a))
    else if regionKind c s.params.codeMap = .absent then some (.fault (.absentCode c)) else none
  | none => if regionKind a s.params.dataMap = .absent then some (.fault (.absentData a)) else none

/-- Whether `MISALIGNED = controller` takes an access away from the core (20_memory.md R67). -/
def State.controllerTakes (s : State) (eda : Word) (sz : Size) : Bool :=
  s.params.misaligned == .controller && sz.align eda != eda

/-- Why a data access stops, if it does. -/
def State.accessStop (s : State) (write : Bool) (eda : Word) (sz : Size) : Option Stop :=
  if s.controllerTakes eda sz then some (.refusal (.misalignedAccess eda))
  else (sz.addresses eda).findSome? (s.byteStop write)

/-- `MemRead` (20_memory.md R69): the little endian unsigned value at the aligned address. -/
def State.memRead (s : State) (eda : Word) (sz : Size) : Word :=
  let a := sz.align eda
  match sz with
  | .byte => (s.readByte a).setWidth 32
  | .short => (s.readByte (a + 1) ++ s.readByte a).setWidth 32
  | .long => wordOfBytes (s.readByte a) (s.readByte (a + 1)) (s.readByte (a + 2)) (s.readByte (a + 3))

/-- Whether an access reaches a device (20_memory.md R72). -/
def State.touchesDevice (s : State) (eda : Word) (sz : Size) : Bool :=
  (sz.addresses eda).any fun a => s.regionAt a == .device

/-- One more free value has been drawn (log 36). -/
def State.drawn (s : State) : State := { s with draws := s.draws + 1 }

/-- The state once a reading access has been made: a device that gave bytes gives fresh ones to the next access. -/
def State.afterRead (s : State) (eda : Word) (sz : Size) : State := if s.touchesDevice eda sz then s.drawn else s

/-- `MemWrite` (20_memory.md R69): the low bytes of `v`, little endian, at the aligned address. -/
def State.memWrite (s : State) (eda : Word) (sz : Size) (v : Word) : State :=
  let a := sz.align eda
  match sz with
  | .byte => s.putByte a (byteOfWord v 0)
  | .short => (s.putByte a (byteOfWord v 0)).putByte (a + 1) (byteOfWord v 1)
  | .long =>
    (((s.putByte a (byteOfWord v 0)).putByte (a + 1) (byteOfWord v 1)).putByte (a + 2) (byteOfWord v 2)).putByte
      (a + 3) (byteOfWord v 3)

/-- Record one access on a bus, with the operation mode it signals (20_memory.md R69, R74). -/
def State.signal (s : State) (a : BusAccess) : State := { s with bus := s.bus ++ [a] }

/-- A data access of the running instruction, in the current mode (20_memory.md R74). -/
def State.dataAccess (s : State) (written : Option Word) (eda : Word) (sz : Size) : BusAccess :=
  { space := .data, written := written, addr := eda, size := sz, som := s.cs.ir }

/-- The low bytes of a word that an access of a size carries (20_memory.md R69). -/
def Size.lowBytes (sz : Size) (v : Word) : Word :=
  match sz with
  | .byte => v &&& 0xFF#32
  | .short => v &&& 0xFFFF#32
  | .long => v

/-! ### Registers -/

/-- CC as an operand (10_state.md R25, R43). -/
def Flags.bits (f : Flags) : BitVec 4 :=
  BitVec.ofBool f.n ++ BitVec.ofBool f.z ++ BitVec.ofBool f.o ++ BitVec.ofBool f.c

/-- The flags in bits N Z O C of an operand (10_state.md R44). -/
def Flags.ofBits (v : BitVec 4) : Flags :=
  { n := v.getLsbD 3, z := v.getLsbD 2, o := v.getLsbD 1, c := v.getLsbD 0 }

/-- CS as an operand (10_state.md R32, R43). -/
def ControlStatus.word (c : ControlStatus) : Word :=
  c.ivtp ++ 0#3 ++ BitVec.ofBool c.is ++ BitVec.ofBool c.ie ++ BitVec.ofBool c.ir

/-- ID as an operand (10_state.md R42, R43): REV, IMA, ISA = 1, FML = 4. -/
def State.idWord (s : State) : Word := 0#16 ++ s.params.idRev ++ s.params.idIma.code ++ 1#4 ++ 4#4

/-- An instruction address held without its two hard-wired zeros (10_state.md R38 to R40). -/
def linkWord (a : BitVec 30) : Word := a ++ 0#2

/-- The stored bits of an instruction address (10_state.md R44). -/
def linkBits (v : Word) : BitVec 30 := v.extractLsb' 2 30

/-- The read view `x[r]` (10_state.md R43). -/
def State.readReg (s : State) : Reg → Word
  | .gpr n => s.gprs[n]
  | .lc => s.lc
  | .cc => s.cc.bits.setWidth 32
  | .cs => s.cs.word
  | .ep => s.ep
  | .ta => linkWord s.ta
  | .sa => linkWord s.sa
  | .ia => linkWord s.ia
  | .id => s.idWord

/-- The write view `x[r] <- v` where no security exception is due (10_state.md R44). -/
def State.writeReg (s : State) (r : Reg) (v : Word) : State :=
  match r with
  | .gpr n => { s with gprs := s.gprs.set n v }
  | .lc => { s with lc := v }
  | .cc => { s with cc := Flags.ofBits (v.extractLsb' 0 4) }
  | .cs => { s with cs := { s.cs with ivtp := v.extractLsb' 6 26 } }
  | .ep => { s with ep := v }
  | .ta => { s with ta := linkBits v }
  | .sa => { s with sa := linkBits v }
  | .ia => { s with ia := linkBits v }
  | .id => s

/-- New flags (10_state.md R30). -/
def State.setFlags (s : State) (f : Flags) : State := { s with cc := f }

/-! ### The program counter -/

/-- `pc <- cia + 4`, left out for an injected instruction (40_operands_and_conditions.md R130,
60_exceptions.md R345): while `stopped` holds, only injected instructions run. -/
def State.advance (s : State) : State := { s with pc := if s.stopped then s.pc else s.pc + 4#32 }

/-- `pc <- target`. -/
def State.jumpTo (s : State) (target : Word) : State := { s with pc := target }

/-! ### Free values -/

/-- The word on DBI at this step (42_move_debugport.md R201): what the environment drives, else a free value. -/
def State.dbiWord (s : State) : Word :=
  match s.dbi with
  | some v => v
  | none => Config.undrivenDbi s.draws

/-- The state after DBI has been read. -/
def State.readDbi (s : State) : State :=
  match s.dbi with
  | some _ => s
  | none => s.drawn

/-! ### Taking an interrupt (60_exceptions.md R324 to R330) and returning from one (R327) -/

/-- The address of vector table entry n (60_exceptions.md R324). -/
def State.vectorAddr (s : State) (n : BitVec 4) : Word := (s.cs.ivtp ++ 0#6) + (n.setWidth 32 <<< 2)

/-- The vector fetch as the data bus shows it, a som access (60_exceptions.md R325). -/
def State.vectorAccess (s : State) (n : BitVec 4) : BusAccess :=
  { space := .data, written := none, addr := s.vectorAddr n, size := .long, som := true }

/-- Interrupt entry (60_exceptions.md R326, R328): the vector is read as a som access, CC is copied to the hidden
register, IA receives the return address, the core enters som and continues at the vector. CS.IE, CS.IS and CC
keep their values. -/
def State.enterInterrupt (s : State) (n : BitVec 4) (ret : Word) : State :=
  { s.afterRead (s.vectorAddr n) .long with
    hcc := s.cc
    hccSaved := true
    ia := linkBits ret
    cs := { s.cs with ir := true }
    pc := wordAligned (s.memRead (s.vectorAddr n) .long)
    bus := s.bus ++ [s.vectorAccess n] }

/-- An external request acknowledged with number n (60_exceptions.md R326): the return address is the next
instruction's, and IACK(n) is emitted. -/
def externalInterrupt (n : BitVec 4) (s : State) : Result :=
  unlessStopped (s.accessStop false (s.vectorAddr n) .long)
    (.next { s.enterInterrupt n s.pc with iack := some n })

/-- The return address of a security exception (60_exceptions.md R330). -/
def State.offenderReturn (s : State) : Word :=
  match s.params.secExcIa with
  | .offender => s.pc
  | .following => s.pc + 4#32
  | .drawn => if Config.returnsPastOffender s.draws then s.pc + 4#32 else s.pc

/-- The state once the choice of the return address has been made. -/
def State.returnChosen (s : State) : State :=
  match s.params.secExcIa with
  | .drawn => s.drawn
  | _ => s

/-- Why a security exception is refused, if it is: an injected instruction would raise it (60_exceptions.md R345),
or it is masked under `SECEXC_NEEDS_IE` (R329). -/
def State.securityStop (s : State) : Option Stop :=
  if s.stopped then some (.refusal .injectedSecurityException)
  else if s.params.secExcNeedsIe && !s.cs.ie then some (.refusal .maskedSecurityException)
  else s.accessStop false (s.vectorAddr 0) .long

/-- `raise SecurityException` (60_exceptions.md R328): interrupt I0, entered in the same step; the offending
instruction's destination is not written and no IACK is emitted. -/
def securityException (s : State) : Result :=
  unlessStopped s.securityStop (.next (s.returnChosen.enterInterrupt 0 s.offenderReturn))

/-- Whether a write of a register raises the security exception (10_state.md R44, 60_exceptions.md R328). -/
def State.protects (s : State) (r : Reg) : Bool := !s.cs.ir && (r == .cs || r == .ia)

/-- The flags rtir restores: the hidden copy, or a free value where no interrupt entry has written it since reset
(47_flow_control.md R274; log 7). -/
def State.savedFlags (s : State) : Flags :=
  if s.hccSaved then s.hcc else Flags.ofBits (Config.unsavedFlags s.draws)

/-- The state once the restored flags have been read. -/
def State.flagsRestored (s : State) : State := if s.hccSaved then s else s.drawn

/-- Return from an interrupt (60_exceptions.md R327, 47_flow_control.md R274): `pc <- IA`, `CC <- HCC`,
`CS.IR <- 0`; CS.IE and CS.IS keep their values. -/
def State.leaveInterrupt (s : State) : State :=
  { s.flagsRestored with
    pc := linkWord s.ia
    cc := s.savedFlags
    cs := { s.cs with ir := false } }

/-! ### Reset -/

/-- The reset input seen with `irn` on IRN[3:0] (70_reset_and_hazards.md R370, R371). What R50 leaves undefined returns
to the values of `State.reset`, but for IA, which "is not written by reset"; the memories, the parameters and the
environment stay (log 24). -/
def State.coldStart (s : State) (irn : BitVec 4) : State :=
  { State.reset with
    pc := irn ++ 0#28
    ia := s.ia
    dmem := s.dmem
    imem := s.imem
    inputs := s.inputs
    dbi := s.dbi
    draws := s.draws
    params := s.params }

/-! ### Instruction memory -/

/-- `IFetch` (20_memory.md R68): the little endian word at an instruction address. -/
def State.codeWord (s : State) (a : Word) : Word :=
  wordOfBytes (s.imem.read a) (s.imem.read (a + 1)) (s.imem.read (a + 2)) (s.imem.read (a + 3))

/-- Why a fetch of one byte stops, if it does (20_memory.md R68). -/
def State.codeByteStop (s : State) (a : Word) : Option Stop :=
  match regionKind a s.params.codeMap with
  | .ram | .rom => none
  | .device => some (.refusal (.deviceFetch a))
  | .absent => some (.fault (.absentCode a))

/-- Why the fetch of a word stops, if it does. -/
def State.fetchStop (s : State) (a : Word) : Option Stop :=
  [a, a + 1, a + 2, a + 3].findSome? s.codeByteStop

/-- A word stored in instruction memory (20_memory.md R64). -/
def State.putCode (s : State) (a : Word) (w : Word) : State :=
  { s with
    imem := (((s.imem.write a (byteOfWord w 0)).write (a + 1) (byteOfWord w 1)).write (a + 2) (byteOfWord w 2)).write
      (a + 3) (byteOfWord w 3) }

/-- One byte the debug module writes directly (60_exceptions.md R342). -/
def State.poke (s : State) (p : Poke) : State :=
  match p.space with
  | .code => { s with imem := s.imem.write p.addr p.value }
  | .data => { s with dmem := s.dmem.write p.addr p.value }

end Sys2Proof.Machine
end

