-- ==== Sys2Proof/Machine/Operands.lean ====
section
/-! DEFINITION. Operand types and addressing modes (40_operands_and_conditions.md R133 to R155), and the skeletons that
instructions of one shape share. -/

namespace Sys2Proof.Machine

/-! ### Constant operands -/

/-- C12U (40_operands_and_conditions.md R133). -/
def srcC12U (c : BitVec 12) : Word := c.setWidth 32

/-- C16U (R134). -/
def srcC16U (c : BitVec 16) : Word := c.setWidth 32

/-- C32U from its coded high half (R135). -/
def srcC32U (hi : BitVec 16) : Word := hi ++ 0#16

/-- C16S (R136). -/
def srcC16S (c : BitVec 16) : Word := c.signExtend 32

/-- C17S (R137). -/
def srcC17S (c : BitVec 17) : Word := c.signExtend 32

/-- DO12S and AU12S (R146, R148). -/
def offset12 (c : BitVec 12) : Word := c.signExtend 32

/-- DA16S as an effective data address (R145). -/
def direct16 (c : BitVec 16) : Word := c.signExtend 32

/-- IO16S from its coded bits 15..2 (R154). -/
def branchOffset (off : BitVec 14) : Word := (off ++ 0#2).signExtend 32

/-- IA29U from its coded bits 28..2 (R153). -/
def directTarget (ia : BitVec 27) : Word := (ia ++ 0#2).setWidth 32

/-- The count or index in bits [4:0] of a register operand (45_shift_bit.md R240). -/
def lowFive (v : Word) : Nat := (v.extractLsb' 0 5).toNat

/-! ### The condition -/

/-- An instruction with a condition (40_operands_and_conditions.md R130): a refused operand refuses first, then CND is
evaluated; a false condition performs no operation (R132). -/
def conditional (cnd : Cond) (refusal : Option Refusal) (s : State) (effect : Result) : Result :=
  match refusal with
  | some r => .refused r
  | none =>
    if !cnd.defined then .refused .undefinedCondition
    else if condHolds cnd s.cc then effect
    else .next s.advance

/-! ### Computation instructions -/

/-- The first register that is not general purpose (10_state.md R46). -/
def computeRefusal (regs : List Reg) : Option Refusal :=
  (regs.find? fun r => !r.isGpr).map .forbiddenRegister

/-- A computation instruction: legal registers, condition, effect, next instruction (43_arithmetic.md R210). -/
def compute (regs : List Reg) (cnd : Cond) (s : State) (effect : State) : Result :=
  conditional cnd (computeRefusal regs) s (.next effect.advance)

/-! ### Moves and debug-port transfers -/

/-- EP under `EP_BEHAVIOUR = refused` (10_state.md R37). -/
def State.epRefusal (s : State) (regs : List Reg) : Option Refusal :=
  if regs.contains .ep && s.params.ep == .refused then some .extensionRegister else none

/-- A write of the move family: CS and IA raise the security exception in application mode
(42_move_debugport.md R200, R201). `v` is the source and `after` the state once it has been read. -/
def State.moveTo (s : State) (rd : Reg) (v : Word) (after : State) : Result :=
  if s.protects rd then securityException s else .next (after.writeReg rd v).advance

/-! ### Data memory addressing modes (40_operands_and_conditions.md R145 to R149) -/

/-- The addressing modes of the single-register loads and stores. -/
inductive AddrMode where
  | direct (da : BitVec 16)
  | offset (dof : BitVec 12) (an : AReg)
  | index (rx : Reg) (an : AReg)
  | update (an : AReg) (au : BitVec 12)
  | regUpdate (an : AReg) (ru : Reg)
  deriving DecidableEq, Repr

/-- The effective data address. -/
def AddrMode.eda (m : AddrMode) (sz : Size) (s : State) : Word :=
  match m with
  | .direct da => direct16 da
  | .offset dof an => s.readReg an.reg + offset12 dof
  | .index rx an => s.readReg an.reg + sz.word * s.readReg rx
  | .update an _ => s.readReg an.reg
  | .regUpdate an _ => s.readReg an.reg

/-- The update of An, from the registers as the instruction found them. -/
def AddrMode.updated (m : AddrMode) (s : State) : Option (Reg × Word) :=
  match m with
  | .update an au => some (an.reg, s.readReg an.reg + offset12 au)
  | .regUpdate an ru => some (an.reg, s.readReg an.reg + s.readReg ru)
  | _ => none

/-- Apply the update of An. -/
def State.applyUpdate (s : State) (u : Option (Reg × Word)) : State :=
  match u with
  | some (r, v) => s.writeReg r v
  | none => s

/-- Index and update registers of a mode. -/
def AddrMode.indexRegs : AddrMode → List Reg
  | .index rx _ => [rx]
  | .regUpdate _ ru => [ru]
  | _ => []

/-- The registers the update of a mode uses: a load must not write them (41_load_store.md R172). -/
def AddrMode.updateRegs : AddrMode → List Reg
  | .update an _ => [an.reg]
  | .regUpdate an ru => [an.reg, ru]
  | _ => []

/-- The first register of an access in a forbidden position (41_load_store.md R171). -/
def accessRefusal (reg : Reg) (m : AddrMode) : Option Refusal :=
  if reg.canTransfer then (m.indexRegs.find? fun r => !r.canIndex).map .forbiddenRegister
  else some (.forbiddenRegister reg)

/-- What the operands of a load refuse (41_load_store.md R171, R172). -/
def loadRefusal (rd : Reg) (m : AddrMode) : Option Refusal :=
  match accessRefusal rd m with
  | some r => some r
  | none => if m.updateRegs.contains rd then some (.loadOverlap rd) else none

/-! ### Loads and stores (41_load_store.md R173 to R182) -/

/-- The five loads (20_memory.md R66). -/
inductive LoadKind where
  | bz
  | bs
  | sz
  | ss
  | lg
  deriving DecidableEq, Repr

/-- The access size of a load. -/
def LoadKind.size : LoadKind → Size
  | .bz | .bs => .byte
  | .sz | .ss => .short
  | .lg => .long

/-- The extension of a load to 32 bits (41_load_store.md R175 to R179). -/
def LoadKind.extend (k : LoadKind) (v : Word) : Word :=
  match k with
  | .bz | .sz | .lg => v
  | .bs => (v.extractLsb' 0 8).signExtend 32
  | .ss => (v.extractLsb' 0 16).signExtend 32

/-- The value a load gives its destination. -/
def State.loadValue (s : State) (k : LoadKind) (eda : Word) : Word := k.extend (s.memRead eda k.size)

/-- The state after a single-register load: destination, then the update of An. -/
def State.loaded (s : State) (k : LoadKind) (rd : Reg) (m : AddrMode) : State :=
  let eda := m.eda k.size s
  (((s.signal (s.dataAccess none eda k.size)).afterRead eda k.size).writeReg rd (s.loadValue k eda)).applyUpdate
    (m.updated s)

/-- A single-register load (41_load_store.md, skeleton after R174). -/
def loadSingle (k : LoadKind) (m : AddrMode) (rd : Reg) (cnd : Cond) (s : State) : Result :=
  conditional cnd (loadRefusal rd m) s
    (unlessStopped (s.accessStop false (m.eda k.size s) k.size) (.next (s.loaded k rd m).advance))

/-- The state after a single-register store. -/
def State.stored (s : State) (sz : Size) (rs : Reg) (m : AddrMode) : State :=
  let eda := m.eda sz s
  ((s.signal (s.dataAccess (some (sz.lowBytes (s.readReg rs))) eda sz)).memWrite eda sz (s.readReg rs)).applyUpdate
    (m.updated s)

/-- A single-register store (41_load_store.md, skeleton after R174). -/
def storeSingle (sz : Size) (rs : Reg) (m : AddrMode) (cnd : Cond) (s : State) : Result :=
  conditional cnd (accessRefusal rs m) s
    (unlessStopped (s.accessStop true (m.eda sz s) sz) (.next (s.stored sz rs m).advance))

/-- The two RGS modes: `(An)+` and `-(An)` (40_operands_and_conditions.md R150, R151). -/
inductive RgsMode where
  | up
  | down
  deriving DecidableEq, Repr

/-- The selected registers in the transfer order of a mode (41_load_store.md R173, R174). -/
def RgsMode.order (d : RgsMode) (sel : RegSel) : List Reg :=
  match d with
  | .up => RegSel.registers sel
  | .down => (RegSel.registers sel).reverse

/-- The effective address of element i, from the content of An (R173, R174). -/
def RgsMode.eda (d : RgsMode) (sz : Size) (a : Word) (i : Nat) : Word :=
  match d with
  | .up => a + sz.word * BitVec.ofNat 32 i
  | .down => a - sz.word * BitVec.ofNat 32 i - sz.word

/-- The final content of An after n elements (R173, R174). -/
def RgsMode.final (d : RgsMode) (sz : Size) (a : Word) (n : Nat) : Word :=
  match d with
  | .up => a + sz.word * BitVec.ofNat 32 n
  | .down => a - sz.word * BitVec.ofNat 32 n

/-- The transfers of an RGS instruction in order: register and effective address. -/
def RgsMode.transfers (d : RgsMode) (sz : Size) (an : AReg) (sel : RegSel) (s : State) : List (Reg × Word) :=
  (d.order sel).zipIdx.map fun p => (p.1, d.eda sz (s.readReg an.reg) p.2)

/-- Why one of the accesses stops, if one does. -/
def State.transferStop (s : State) (write : Bool) (sz : Size) (ts : List (Reg × Word)) : Option Stop :=
  ts.findSome? fun t => s.accessStop write t.2 sz

/-- An RGS form with no register is refused (30_encoding.md R104). -/
def selectionRefusal (sel : RegSel) : Option Refusal := if sel = 0 then some .emptySelection else none

/-- What the operands of an RGS load refuse (30_encoding.md R104, 41_load_store.md R172). -/
def loadSelectionRefusal (an : AReg) (sel : RegSel) : Option Refusal :=
  match selectionRefusal sel with
  | some r => some r
  | none => if RegSel.holds sel an.reg then some (.loadOverlap an.reg) else none

/-- Load one element. -/
def State.loadElement (k : LoadKind) (s : State) (t : Reg × Word) : State :=
  ((s.signal (s.dataAccess none t.2 k.size)).afterRead t.2 k.size).writeReg t.1 (s.loadValue k t.2)

/-- Store one element, with the register value the instruction found. -/
def State.storeElement (src : State) (sz : Size) (s : State) (t : Reg × Word) : State :=
  (s.signal (s.dataAccess (some (sz.lowBytes (src.readReg t.1))) t.2 sz)).memWrite t.2 sz (src.readReg t.1)

/-- The state after an RGS load: the elements in order, then An (41_load_store.md R173, R174). -/
def State.loadedSelection (s : State) (k : LoadKind) (d : RgsMode) (an : AReg) (sel : RegSel) : State :=
  ((d.transfers k.size an sel s).foldl (State.loadElement k) s).writeReg an.reg
    (d.final k.size (s.readReg an.reg) (d.order sel).length)

/-- An RGS load (41_load_store.md R173, R174); it has no CND. -/
def loadSelection (k : LoadKind) (d : RgsMode) (an : AReg) (sel : RegSel) (s : State) : Result :=
  conditional .alw (loadSelectionRefusal an sel) s
    (unlessStopped (s.transferStop false k.size (d.transfers k.size an sel s))
      (.next (s.loadedSelection k d an sel).advance))

/-- The state after an RGS store: every source is read before anything is written (41_load_store.md R172 to R174). -/
def State.storedSelection (s : State) (sz : Size) (d : RgsMode) (sel : RegSel) (an : AReg) : State :=
  ((d.transfers sz an sel s).foldl (State.storeElement s sz) s).writeReg an.reg
    (d.final sz (s.readReg an.reg) (d.order sel).length)

/-- An RGS store (41_load_store.md R173, R174); it has no CND. -/
def storeSelection (sz : Size) (d : RgsMode) (sel : RegSel) (an : AReg) (s : State) : Result :=
  conditional .alw (selectionRefusal sel) s
    (unlessStopped (s.transferStop true sz (d.transfers sz an sel s))
      (.next (s.storedSelection sz d sel an).advance))

/-! ### Flow control -/

/-- A flow instruction: refused where it is injected (60_exceptions.md R345). -/
def flow (s : State) (effect : State) : Result :=
  if s.stopped then .refused .injectedFlow else .next effect

/-- The target of a relative branch: the offset counts from the branch itself (40_operands_and_conditions.md R154). -/
def State.branchTarget (s : State) (off : BitVec 14) : Word := s.pc + branchOffset off

/-- A conditional branch on condition `c` (47_flow_control.md R276). The S flag has no effect (R155). -/
def branchOn (c : Cond) (off : BitVec 14) (_hint : Bool) (s : State) : Result :=
  flow s (if condHolds c s.cc then s.jumpTo (s.branchTarget off) else s.jumpTo (s.pc + 4#32))

/-- SA receives the address of the next instruction (47_flow_control.md R272). -/
def State.link (s : State) : State := s.writeReg .sa (s.pc + 4#32)

/-! ### Interrupt enable -/

/-- stie, clie, scie, rsie: the effect, or the security exception in application mode where `IEOPS_IN_AOM` says so
(47_flow_control.md R291 to R294, 60_exceptions.md R336). -/
def interruptEnable (s : State) (effect : ControlStatus) : Result :=
  if !s.cs.ir && s.params.ieOps == .securityException then securityException s
  else .next { s with cs := effect }.advance

end Sys2Proof.Machine
end

