-- ==== Sys2Proof/Machine/Arithmetic.lean ====
section
/-! DEFINITION. The arithmetic instructions (43_arithmetic.md). -/

namespace Sys2Proof.Machine

/-- The sum `src1 + src0` and its flags (43_arithmetic.md R211). -/
def addTo (src0 src1 : Word) (rd : Reg) (s : State) : State :=
  let r := src1 + src0
  (s.setFlags (addFlags src0 src1 r)).writeReg rd r

/-- `addt Rs0,Rs1,Rd,CND` (43_arithmetic.md R211). -/
def execAddtTri (rs0 rs1 rd : Reg) (cnd : Cond) (s : State) : Result :=
  compute [rs0, rs1, rd] cnd s (addTo (s.readReg rs0) (s.readReg rs1) rd s)

/-- `addt C12U,Rs1,Rd,CND` (43_arithmetic.md R211). -/
def execAddtK12 (c : BitVec 12) (rs1 rd : Reg) (cnd : Cond) (s : State) : Result :=
  compute [rs1, rd] cnd s (addTo (srcC12U c) (s.readReg rs1) rd s)

/-- `addt C16U,Rs1,Rd` (43_arithmetic.md R211). -/
def execAddtK16 (c : BitVec 16) (rs1 rd : Reg) (s : State) : Result :=
  compute [rs1, rd] .alw s (addTo (srcC16U c) (s.readReg rs1) rd s)

/-- The sum with the carry flag; Z is sticky (R212). -/
def addWithCarry (src0 src1 : Word) (rd : Reg) (s : State) : State :=
  let r := src1 + src0 + s.cc.carryWord
  (s.setFlags (s.cc.stickyZero (addFlags src0 src1 r))).writeReg rd r

/-- `addc Rs0,Rs1,Rd,CND` (43_arithmetic.md R212). -/
def execAddcTri (rs0 rs1 rd : Reg) (cnd : Cond) (s : State) : Result :=
  compute [rs0, rs1, rd] cnd s (addWithCarry (s.readReg rs0) (s.readReg rs1) rd s)

/-- `addc C12U,Rs1,Rd,CND` (43_arithmetic.md R212). -/
def execAddcK12 (c : BitVec 12) (rs1 rd : Reg) (cnd : Cond) (s : State) : Result :=
  compute [rs1, rd] cnd s (addWithCarry (srcC12U c) (s.readReg rs1) rd s)

/-- The sum of a register and a high constant; no flag changes (R213). -/
def addHigh (src0 src1 : Word) (rd : Reg) (s : State) : State :=
  let r := src1 + src0
  s.writeReg rd r

/-- `addh C32U,Rs1,Rd` (43_arithmetic.md R213). -/
def execAddh (hi : BitVec 16) (rs1 rd : Reg) (s : State) : Result :=
  compute [rs1, rd] .alw s (addHigh (srcC32U hi) (s.readReg rs1) rd s)

/-- The difference `src1 - src0` and its flags (R214). -/
def subtractFrom (src0 src1 : Word) (rd : Reg) (s : State) : State :=
  let r := src1 - src0
  (s.setFlags (subFlags src0 src1 r)).writeReg rd r

/-- `subf Rs0,Rs1,Rd,CND` (43_arithmetic.md R214). -/
def execSubfTri (rs0 rs1 rd : Reg) (cnd : Cond) (s : State) : Result :=
  compute [rs0, rs1, rd] cnd s (subtractFrom (s.readReg rs0) (s.readReg rs1) rd s)

/-- `subf C12U,Rs1,Rd,CND` (43_arithmetic.md R214). -/
def execSubfK12 (c : BitVec 12) (rs1 rd : Reg) (cnd : Cond) (s : State) : Result :=
  compute [rs1, rd] cnd s (subtractFrom (srcC12U c) (s.readReg rs1) rd s)

/-- `subf C16U,Rs1,Rd` (43_arithmetic.md R214). -/
def execSubfK16 (c : BitVec 16) (rs1 rd : Reg) (s : State) : Result :=
  compute [rs1, rd] .alw s (subtractFrom (srcC16U c) (s.readReg rs1) rd s)

/-- The difference with the carry flag as borrow; Z is sticky (R215). -/
def subtractWithCarry (src0 src1 : Word) (rd : Reg) (s : State) : State :=
  let r := src1 - src0 - s.cc.carryWord
  (s.setFlags (s.cc.stickyZero (subFlags src0 src1 r))).writeReg rd r

/-- `subc Rs0,Rs1,Rd,CND` (43_arithmetic.md R215). -/
def execSubcTri (rs0 rs1 rd : Reg) (cnd : Cond) (s : State) : Result :=
  compute [rs0, rs1, rd] cnd s (subtractWithCarry (s.readReg rs0) (s.readReg rs1) rd s)

/-- `subc C12U,Rs1,Rd,CND` (43_arithmetic.md R215). -/
def execSubcK12 (c : BitVec 12) (rs1 rd : Reg) (cnd : Cond) (s : State) : Result :=
  compute [rs1, rd] cnd s (subtractWithCarry (srcC12U c) (s.readReg rs1) rd s)

/-- The flags of `src1 - src0`; no register is written (R216). -/
def compareFlags (src0 src1 : Word) (s : State) : State := s.setFlags (subFlags src0 src1 (src1 - src0))

/-- `comp Rs0,Rs1` (43_arithmetic.md R216). -/
def execCompCmpr (rs0 rs1 : Reg) (s : State) : Result :=
  compute [rs0, rs1] .alw s (compareFlags (s.readReg rs0) (s.readReg rs1) s)

/-- `comp C17S,Rs1` (43_arithmetic.md R216). -/
def execCompK17c (c : BitVec 17) (rs1 : Reg) (s : State) : Result :=
  compute [rs1] .alw s (compareFlags (srcC17S c) (s.readReg rs1) s)

/-- The flags of `src1 - src0 - C`; Z is sticky (R217). -/
def compareWithCarry (src0 src1 : Word) (s : State) : State :=
  s.setFlags (s.cc.stickyZero (subFlags src0 src1 (src1 - src0 - s.cc.carryWord)))

/-- `cmpc Rs0,Rs1` (43_arithmetic.md R217). -/
def execCmpcCmpr (rs0 rs1 : Reg) (s : State) : Result :=
  compute [rs0, rs1] .alw s (compareWithCarry (s.readReg rs0) (s.readReg rs1) s)

/-- `cmpc C17S,Rs1` (43_arithmetic.md R217). -/
def execCmpcK17c (c : BitVec 17) (rs1 : Reg) (s : State) : Result :=
  compute [rs1] .alw s (compareWithCarry (srcC17S c) (s.readReg rs1) s)

/-- The two's complement (R218). -/
def negate (src : Word) (rd : Reg) (s : State) : State := s.writeReg rd (0 - src)

/-- `negt Rs,Rd,CND` (43_arithmetic.md R218). -/
def execNegt (rs rd : Reg) (cnd : Cond) (s : State) : Result :=
  compute [rs, rd] cnd s (negate (s.readReg rs) rd s)

/-- The absolute value, without saturation (R219). -/
def absolute (src : Word) (rd : Reg) (s : State) : State := s.writeReg rd (if src.msb then 0 - src else src)

/-- `absl Rs,Rd,CND` (43_arithmetic.md R219). -/
def execAbsl (rs rd : Reg) (cnd : Cond) (s : State) : Result :=
  compute [rs, rd] cnd s (absolute (s.readReg rs) rd s)

/-- The zero bits of the low `n` bits above the highest 1 bit among them. -/
def zerosBelow (w : Word) : Nat → Nat
  | 0 => 0
  | n + 1 => if w.getLsbD n then 0 else zerosBelow w n + 1

/-- The number of zero bits above the highest 1 bit; 32 for zero (R220). -/
def leadingZeros (w : Word) : Word := BitVec.ofNat 32 (zerosBelow w 32)

/-- The count of leading zeros (R220). -/
def countZeros (src : Word) (rd : Reg) (s : State) : State := s.writeReg rd (leadingZeros src)

/-- `clzr Rs,Rd,CND` (43_arithmetic.md R220). -/
def execClzr (rs rd : Reg) (cnd : Cond) (s : State) : Result :=
  compute [rs, rd] cnd s (countZeros (s.readReg rs) rd s)

end Sys2Proof.Machine
end

