-- ==== Sys2Proof/Machine/Debug.lean ====
section
/-! DEFINITION. The debug instructions svpc, rspc and stop (48_debug_misc.md). -/

namespace Sys2Proof.Machine

/-- The address svpc reports (48_debug_misc.md R310): the resume address, or the last executed instruction's; left open
where the parameter is. -/
def State.reportedPc (s : State) : Word :=
  match s.params.svpcValue with
  | .resume => s.pc
  | .last => s.lia
  | .drawn => if Config.svpcReportsLast s.draws then s.lia else s.pc

/-- The state once the choice of the reported address has been made. -/
def State.reportChosen (s : State) : State :=
  match s.params.svpcValue with
  | .drawn => s.drawn
  | _ => s

/-- `svpc implied` (48_debug_misc.md R310). -/
def execSvpc (s : State) : Result :=
  if s.stopped then .next { s.reportChosen with dbo := s.reportedPc } else .refused .debugOnly

/-- `rspc implied` (48_debug_misc.md R311). -/
def execRspc (s : State) : Result :=
  if s.stopped then .next (s.readDbi.jumpTo (wordAligned s.dbiWord)) else .refused .debugOnly

/-- `stop implied` (48_debug_misc.md R312). -/
def execStop (s : State) : Result :=
  if s.stopped then .refused .injectedStop else .next { s.advance with stopped := true }

end Sys2Proof.Machine
end

