-- ==== Sys2Proof/Machine/Flow.lean ====
section
/-! DEFINITION. The flow control and interrupt-enable instructions (47_flow_control.md). -/

namespace Sys2Proof.Machine

/-- `jump implied` (47_flow_control.md R271). -/
def execJumpImp (s : State) : Result :=
  flow s (s.jumpTo (s.readReg .ta))

/-- `jump IA29U` (47_flow_control.md R271). -/
def execJumpJa (ia : BitVec 27) (s : State) : Result :=
  flow s (s.jumpTo (directTarget ia))

/-- `jpsr implied` (47_flow_control.md R272). -/
def execJpsrImp (s : State) : Result :=
  flow s (s.link.jumpTo (s.readReg .ta))

/-- `jpsr IA29U` (47_flow_control.md R272). -/
def execJpsrJa (ia : BitVec 27) (s : State) : Result :=
  flow s (s.link.jumpTo (directTarget ia))

/-- `rtsr implied` (47_flow_control.md R273). -/
def execRtsr (s : State) : Result :=
  flow s (s.jumpTo (s.readReg .sa))

/-- `rtir implied` (47_flow_control.md R274). -/
def execRtir (s : State) : Result :=
  if s.stopped then .refused .injectedFlow
  else if s.cs.ir then .next s.leaveInterrupt
  else .refused .returnOutsideInterrupt

/-- The loop counter after brlc's decrement (47_flow_control.md R275). -/
def State.decremented (s : State) : Word := s.lc - 1#32

/-- `brlc IO16S` (47_flow_control.md R275). -/
def execBrlc (off : BitVec 14) (s : State) : Result :=
  flow s
    ((s.writeReg .lc s.decremented).jumpTo (if s.decremented != 0 then s.branchTarget off else s.pc + 4#32))

/-- `brnc IO16S,S` (47_flow_control.md R277). -/
def execBrnc (off : BitVec 14) (hint : Bool) (s : State) : Result :=
  branchOn .inc off hint s

/-- `brcr IO16S,S` (47_flow_control.md R278). -/
def execBrcr (off : BitVec 14) (hint : Bool) (s : State) : Result :=
  branchOn .icr off hint s

/-- `brno IO16S,S` (47_flow_control.md R279). -/
def execBrno (off : BitVec 14) (hint : Bool) (s : State) : Result :=
  branchOn .ino off hint s

/-- `brof IO16S,S` (47_flow_control.md R280). -/
def execBrof (off : BitVec 14) (hint : Bool) (s : State) : Result :=
  branchOn .iof off hint s

/-- `brnz IO16S,S` (47_flow_control.md R281). -/
def execBrnz (off : BitVec 14) (hint : Bool) (s : State) : Result :=
  branchOn .inz off hint s

/-- `brzr IO16S,S` (47_flow_control.md R282). -/
def execBrzr (off : BitVec 14) (hint : Bool) (s : State) : Result :=
  branchOn .izr off hint s

/-- `brps IO16S,S` (47_flow_control.md R283). -/
def execBrps (off : BitVec 14) (hint : Bool) (s : State) : Result :=
  branchOn .ips off hint s

/-- `brng IO16S,S` (47_flow_control.md R284). -/
def execBrng (off : BitVec 14) (hint : Bool) (s : State) : Result :=
  branchOn .ing off hint s

/-- `brls IO16S,S` (47_flow_control.md R285). -/
def execBrls (off : BitVec 14) (hint : Bool) (s : State) : Result :=
  branchOn .ils off hint s

/-- `brhi IO16S,S` (47_flow_control.md R286). -/
def execBrhi (off : BitVec 14) (hint : Bool) (s : State) : Result :=
  branchOn .ihi off hint s

/-- `brlo IO16S,S` (47_flow_control.md R287). -/
def execBrlo (off : BitVec 14) (hint : Bool) (s : State) : Result :=
  branchOn .ilo off hint s

/-- `brge IO16S,S` (47_flow_control.md R288). -/
def execBrge (off : BitVec 14) (hint : Bool) (s : State) : Result :=
  branchOn .ige off hint s

/-- `brle IO16S,S` (47_flow_control.md R289). -/
def execBrle (off : BitVec 14) (hint : Bool) (s : State) : Result :=
  branchOn .ile off hint s

/-- `brgt IO16S,S` (47_flow_control.md R290). -/
def execBrgt (off : BitVec 14) (hint : Bool) (s : State) : Result :=
  branchOn .igt off hint s

/-- `stie implied` (47_flow_control.md R291). -/
def execStie (s : State) : Result :=
  interruptEnable s { s.cs with ie := true }

/-- `clie implied` (47_flow_control.md R292). -/
def execClie (s : State) : Result :=
  interruptEnable s { s.cs with ie := false }

/-- `scie implied` (47_flow_control.md R293). -/
def execScie (s : State) : Result :=
  interruptEnable s { s.cs with is := s.cs.ie, ie := false }

/-- `rsie implied` (47_flow_control.md R294). -/
def execRsie (s : State) : Result :=
  interruptEnable s { s.cs with ie := s.cs.is }

end Sys2Proof.Machine
end

