-- ==== Sys2Proof/Machine/LoadStore.lean ====
section
/-! DEFINITION. The load and store instructions (41_load_store.md). -/

namespace Sys2Proof.Machine

/-- `ldbz DA16S,Rd,CND` (41_load_store.md R175). -/
def execLdbzLsd (da : BitVec 16) (rd : Reg) (cnd : Cond) (s : State) : Result :=
  loadSingle .bz (.direct da) rd cnd s

/-- `ldbz (DO12S,An),Rd,CND` (41_load_store.md R175). -/
def execLdbzLso (dof : BitVec 12) (an : AReg) (rd : Reg) (cnd : Cond) (s : State) : Result :=
  loadSingle .bz (.offset dof an) rd cnd s

/-- `ldbz (An,AU12S)*,Rd,CND` (41_load_store.md R175). -/
def execLdbzLsu (an : AReg) (au : BitVec 12) (rd : Reg) (cnd : Cond) (s : State) : Result :=
  loadSingle .bz (.update an au) rd cnd s

/-- `ldbz (An,Ru)*,Rd,CND` (41_load_store.md R175). -/
def execLdbzLsr (an : AReg) (ru rd : Reg) (cnd : Cond) (s : State) : Result :=
  loadSingle .bz (.regUpdate an ru) rd cnd s

/-- `ldbz (Rx,An),Rd,CND` (41_load_store.md R175). -/
def execLdbzLsx (rx : Reg) (an : AReg) (rd : Reg) (cnd : Cond) (s : State) : Result :=
  loadSingle .bz (.index rx an) rd cnd s

/-- `ldbz (An)+,RGS` (41_load_store.md R175). -/
def execLdbzRgsi (an : AReg) (sel : RegSel) (s : State) : Result :=
  loadSelection .bz .up an sel s

/-- `ldbz -(An),RGS` (41_load_store.md R175). -/
def execLdbzRgsd (an : AReg) (sel : RegSel) (s : State) : Result :=
  loadSelection .bz .down an sel s

/-- `ldbs DA16S,Rd,CND` (41_load_store.md R176). -/
def execLdbsLsd (da : BitVec 16) (rd : Reg) (cnd : Cond) (s : State) : Result :=
  loadSingle .bs (.direct da) rd cnd s

/-- `ldbs (DO12S,An),Rd,CND` (41_load_store.md R176). -/
def execLdbsLso (dof : BitVec 12) (an : AReg) (rd : Reg) (cnd : Cond) (s : State) : Result :=
  loadSingle .bs (.offset dof an) rd cnd s

/-- `ldbs (An,AU12S)*,Rd,CND` (41_load_store.md R176). -/
def execLdbsLsu (an : AReg) (au : BitVec 12) (rd : Reg) (cnd : Cond) (s : State) : Result :=
  loadSingle .bs (.update an au) rd cnd s

/-- `ldbs (An,Ru)*,Rd,CND` (41_load_store.md R176). -/
def execLdbsLsr (an : AReg) (ru rd : Reg) (cnd : Cond) (s : State) : Result :=
  loadSingle .bs (.regUpdate an ru) rd cnd s

/-- `ldbs (Rx,An),Rd,CND` (41_load_store.md R176). -/
def execLdbsLsx (rx : Reg) (an : AReg) (rd : Reg) (cnd : Cond) (s : State) : Result :=
  loadSingle .bs (.index rx an) rd cnd s

/-- `ldbs (An)+,RGS` (41_load_store.md R176). -/
def execLdbsRgsi (an : AReg) (sel : RegSel) (s : State) : Result :=
  loadSelection .bs .up an sel s

/-- `ldbs -(An),RGS` (41_load_store.md R176). -/
def execLdbsRgsd (an : AReg) (sel : RegSel) (s : State) : Result :=
  loadSelection .bs .down an sel s

/-- `ldsz DA16S,Rd,CND` (41_load_store.md R177). -/
def execLdszLsd (da : BitVec 16) (rd : Reg) (cnd : Cond) (s : State) : Result :=
  loadSingle .sz (.direct da) rd cnd s

/-- `ldsz (DO12S,An),Rd,CND` (41_load_store.md R177). -/
def execLdszLso (dof : BitVec 12) (an : AReg) (rd : Reg) (cnd : Cond) (s : State) : Result :=
  loadSingle .sz (.offset dof an) rd cnd s

/-- `ldsz (An,AU12S)*,Rd,CND` (41_load_store.md R177). -/
def execLdszLsu (an : AReg) (au : BitVec 12) (rd : Reg) (cnd : Cond) (s : State) : Result :=
  loadSingle .sz (.update an au) rd cnd s

/-- `ldsz (An,Ru)*,Rd,CND` (41_load_store.md R177). -/
def execLdszLsr (an : AReg) (ru rd : Reg) (cnd : Cond) (s : State) : Result :=
  loadSingle .sz (.regUpdate an ru) rd cnd s

/-- `ldsz (Rx,An),Rd,CND` (41_load_store.md R177). -/
def execLdszLsx (rx : Reg) (an : AReg) (rd : Reg) (cnd : Cond) (s : State) : Result :=
  loadSingle .sz (.index rx an) rd cnd s

/-- `ldsz (An)+,RGS` (41_load_store.md R177). -/
def execLdszRgsi (an : AReg) (sel : RegSel) (s : State) : Result :=
  loadSelection .sz .up an sel s

/-- `ldsz -(An),RGS` (41_load_store.md R177). -/
def execLdszRgsd (an : AReg) (sel : RegSel) (s : State) : Result :=
  loadSelection .sz .down an sel s

/-- `ldss DA16S,Rd,CND` (41_load_store.md R178). -/
def execLdssLsd (da : BitVec 16) (rd : Reg) (cnd : Cond) (s : State) : Result :=
  loadSingle .ss (.direct da) rd cnd s

/-- `ldss (DO12S,An),Rd,CND` (41_load_store.md R178). -/
def execLdssLso (dof : BitVec 12) (an : AReg) (rd : Reg) (cnd : Cond) (s : State) : Result :=
  loadSingle .ss (.offset dof an) rd cnd s

/-- `ldss (An,AU12S)*,Rd,CND` (41_load_store.md R178). -/
def execLdssLsu (an : AReg) (au : BitVec 12) (rd : Reg) (cnd : Cond) (s : State) : Result :=
  loadSingle .ss (.update an au) rd cnd s

/-- `ldss (An,Ru)*,Rd,CND` (41_load_store.md R178). -/
def execLdssLsr (an : AReg) (ru rd : Reg) (cnd : Cond) (s : State) : Result :=
  loadSingle .ss (.regUpdate an ru) rd cnd s

/-- `ldss (Rx,An),Rd,CND` (41_load_store.md R178). -/
def execLdssLsx (rx : Reg) (an : AReg) (rd : Reg) (cnd : Cond) (s : State) : Result :=
  loadSingle .ss (.index rx an) rd cnd s

/-- `ldss (An)+,RGS` (41_load_store.md R178). -/
def execLdssRgsi (an : AReg) (sel : RegSel) (s : State) : Result :=
  loadSelection .ss .up an sel s

/-- `ldss -(An),RGS` (41_load_store.md R178). -/
def execLdssRgsd (an : AReg) (sel : RegSel) (s : State) : Result :=
  loadSelection .ss .down an sel s

/-- `ldlg DA16S,Rd,CND` (41_load_store.md R179). -/
def execLdlgLsd (da : BitVec 16) (rd : Reg) (cnd : Cond) (s : State) : Result :=
  loadSingle .lg (.direct da) rd cnd s

/-- `ldlg (DO12S,An),Rd,CND` (41_load_store.md R179). -/
def execLdlgLso (dof : BitVec 12) (an : AReg) (rd : Reg) (cnd : Cond) (s : State) : Result :=
  loadSingle .lg (.offset dof an) rd cnd s

/-- `ldlg (An,AU12S)*,Rd,CND` (41_load_store.md R179). -/
def execLdlgLsu (an : AReg) (au : BitVec 12) (rd : Reg) (cnd : Cond) (s : State) : Result :=
  loadSingle .lg (.update an au) rd cnd s

/-- `ldlg (An,Ru)*,Rd,CND` (41_load_store.md R179). -/
def execLdlgLsr (an : AReg) (ru rd : Reg) (cnd : Cond) (s : State) : Result :=
  loadSingle .lg (.regUpdate an ru) rd cnd s

/-- `ldlg (Rx,An),Rd,CND` (41_load_store.md R179). -/
def execLdlgLsx (rx : Reg) (an : AReg) (rd : Reg) (cnd : Cond) (s : State) : Result :=
  loadSingle .lg (.index rx an) rd cnd s

/-- `ldlg (An)+,RGS` (41_load_store.md R179). -/
def execLdlgRgsi (an : AReg) (sel : RegSel) (s : State) : Result :=
  loadSelection .lg .up an sel s

/-- `ldlg -(An),RGS` (41_load_store.md R179). -/
def execLdlgRgsd (an : AReg) (sel : RegSel) (s : State) : Result :=
  loadSelection .lg .down an sel s

/-- `stbt Rs,DA16S,CND` (41_load_store.md R180). -/
def execStbtLsd (rs : Reg) (da : BitVec 16) (cnd : Cond) (s : State) : Result :=
  storeSingle .byte rs (.direct da) cnd s

/-- `stbt Rs,(DO12S,An),CND` (41_load_store.md R180). -/
def execStbtLso (rs : Reg) (dof : BitVec 12) (an : AReg) (cnd : Cond) (s : State) : Result :=
  storeSingle .byte rs (.offset dof an) cnd s

/-- `stbt Rs,(An,AU12S)*,CND` (41_load_store.md R180). -/
def execStbtLsu (rs : Reg) (an : AReg) (au : BitVec 12) (cnd : Cond) (s : State) : Result :=
  storeSingle .byte rs (.update an au) cnd s

/-- `stbt Rs,(An,Ru)*,CND` (41_load_store.md R180). -/
def execStbtLsr (rs : Reg) (an : AReg) (ru : Reg) (cnd : Cond) (s : State) : Result :=
  storeSingle .byte rs (.regUpdate an ru) cnd s

/-- `stbt Rs,(Rx,An),CND` (41_load_store.md R180). -/
def execStbtLsx (rs rx : Reg) (an : AReg) (cnd : Cond) (s : State) : Result :=
  storeSingle .byte rs (.index rx an) cnd s

/-- `stbt RGS,(An)+` (41_load_store.md R180). -/
def execStbtRgsi (sel : RegSel) (an : AReg) (s : State) : Result :=
  storeSelection .byte .up sel an s

/-- `stbt RGS,-(An)` (41_load_store.md R180). -/
def execStbtRgsd (sel : RegSel) (an : AReg) (s : State) : Result :=
  storeSelection .byte .down sel an s

/-- `stlg Rs,DA16S,CND` (41_load_store.md R182). -/
def execStlgLsd (rs : Reg) (da : BitVec 16) (cnd : Cond) (s : State) : Result :=
  storeSingle .long rs (.direct da) cnd s

/-- `stlg Rs,(DO12S,An),CND` (41_load_store.md R182). -/
def execStlgLso (rs : Reg) (dof : BitVec 12) (an : AReg) (cnd : Cond) (s : State) : Result :=
  storeSingle .long rs (.offset dof an) cnd s

/-- `stlg Rs,(An,AU12S)*,CND` (41_load_store.md R182). -/
def execStlgLsu (rs : Reg) (an : AReg) (au : BitVec 12) (cnd : Cond) (s : State) : Result :=
  storeSingle .long rs (.update an au) cnd s

/-- `stlg Rs,(An,Ru)*,CND` (41_load_store.md R182). -/
def execStlgLsr (rs : Reg) (an : AReg) (ru : Reg) (cnd : Cond) (s : State) : Result :=
  storeSingle .long rs (.regUpdate an ru) cnd s

/-- `stlg Rs,(Rx,An),CND` (41_load_store.md R182). -/
def execStlgLsx (rs rx : Reg) (an : AReg) (cnd : Cond) (s : State) : Result :=
  storeSingle .long rs (.index rx an) cnd s

/-- `stlg RGS,(An)+` (41_load_store.md R182). -/
def execStlgRgsi (sel : RegSel) (an : AReg) (s : State) : Result :=
  storeSelection .long .up sel an s

/-- `stlg RGS,-(An)` (41_load_store.md R182). -/
def execStlgRgsd (sel : RegSel) (an : AReg) (s : State) : Result :=
  storeSelection .long .down sel an s

/-- `stsh Rs,DA16S,CND` (41_load_store.md R181). -/
def execStshLsd (rs : Reg) (da : BitVec 16) (cnd : Cond) (s : State) : Result :=
  storeSingle .short rs (.direct da) cnd s

/-- `stsh Rs,(DO12S,An),CND` (41_load_store.md R181). -/
def execStshLso (rs : Reg) (dof : BitVec 12) (an : AReg) (cnd : Cond) (s : State) : Result :=
  storeSingle .short rs (.offset dof an) cnd s

/-- `stsh Rs,(An,AU12S)*,CND` (41_load_store.md R181). -/
def execStshLsu (rs : Reg) (an : AReg) (au : BitVec 12) (cnd : Cond) (s : State) : Result :=
  storeSingle .short rs (.update an au) cnd s

/-- `stsh Rs,(An,Ru)*,CND` (41_load_store.md R181). -/
def execStshLsr (rs : Reg) (an : AReg) (ru : Reg) (cnd : Cond) (s : State) : Result :=
  storeSingle .short rs (.regUpdate an ru) cnd s

/-- `stsh Rs,(Rx,An),CND` (41_load_store.md R181). -/
def execStshLsx (rs rx : Reg) (an : AReg) (cnd : Cond) (s : State) : Result :=
  storeSingle .short rs (.index rx an) cnd s

/-- `stsh RGS,(An)+` (41_load_store.md R181). -/
def execStshRgsi (sel : RegSel) (an : AReg) (s : State) : Result :=
  storeSelection .short .up sel an s

/-- `stsh RGS,-(An)` (41_load_store.md R181). -/
def execStshRgsd (sel : RegSel) (an : AReg) (s : State) : Result :=
  storeSelection .short .down sel an s

end Sys2Proof.Machine
end

