-- ==== Sys2Proof/Machine/Logic.lean ====
section
/-! DEFINITION. The logic instructions (44_logic.md). -/

namespace Sys2Proof.Machine

/-- The bitwise and with its flags (44_logic.md R230). -/
def andBits (src0 src1 : Word) (rd : Reg) (s : State) : State :=
  let r := src1 &&& src0
  (s.setFlags (andFlags s.cc r)).writeReg rd r

/-- `andb Rs0,Rs1,Rd,CND` (44_logic.md R230). -/
def execAndbTri (rs0 rs1 rd : Reg) (cnd : Cond) (s : State) : Result :=
  compute [rs0, rs1, rd] cnd s (andBits (s.readReg rs0) (s.readReg rs1) rd s)

/-- `andb C16U,Rs1,Rd` (44_logic.md R230). -/
def execAndbK16 (c : BitVec 16) (rs1 rd : Reg) (s : State) : Result :=
  compute [rs1, rd] .alw s (andBits (srcC16U c) (s.readReg rs1) rd s)

/-- The bitwise inclusive or (R231). -/
def orBits (src0 src1 : Word) (rd : Reg) (s : State) : State :=
  let r := src1 ||| src0
  s.writeReg rd r

/-- `iorb Rs0,Rs1,Rd,CND` (44_logic.md R231). -/
def execIorbTri (rs0 rs1 rd : Reg) (cnd : Cond) (s : State) : Result :=
  compute [rs0, rs1, rd] cnd s (orBits (s.readReg rs0) (s.readReg rs1) rd s)

/-- `iorb C16U,Rs1,Rd` (44_logic.md R231). -/
def execIorbK16 (c : BitVec 16) (rs1 rd : Reg) (s : State) : Result :=
  compute [rs1, rd] .alw s (orBits (srcC16U c) (s.readReg rs1) rd s)

/-- The bitwise exclusive or (R232). -/
def xorBits (src0 src1 : Word) (rd : Reg) (s : State) : State :=
  let r := src1 ^^^ src0
  s.writeReg rd r

/-- `xorb Rs0,Rs1,Rd,CND` (44_logic.md R232). -/
def execXorbTri (rs0 rs1 rd : Reg) (cnd : Cond) (s : State) : Result :=
  compute [rs0, rs1, rd] cnd s (xorBits (s.readReg rs0) (s.readReg rs1) rd s)

/-- `xorb C16U,Rs1,Rd` (44_logic.md R232). -/
def execXorbK16 (c : BitVec 16) (rs1 rd : Reg) (s : State) : Result :=
  compute [rs1, rd] .alw s (xorBits (srcC16U c) (s.readReg rs1) rd s)

/-- The complement (R233). -/
def invertBits (src : Word) (rd : Reg) (s : State) : State := s.writeReg rd (src ^^^ 0xFFFFFFFF#32)

/-- `invt Rs,Rd,CND` (44_logic.md R233). -/
def execInvt (rs rd : Reg) (cnd : Cond) (s : State) : Result :=
  compute [rs, rd] cnd s (invertBits (s.readReg rs) rd s)

end Sys2Proof.Machine
end

