-- ==== Sys2Proof/Machine/Move.lean ====
section
/-! DEFINITION. The move and debug-port transfer instructions (42_move_debugport.md). -/

namespace Sys2Proof.Machine

/-- `move Rs,Rd,CND` (42_move_debugport.md R200). -/
def execMoveDual (rs rd : Reg) (cnd : Cond) (s : State) : Result :=
  conditional cnd (s.epRefusal [rs, rd]) s (s.moveTo rd (s.readReg rs) s)

/-- `move C17S,Rd,CND` (42_move_debugport.md R200). -/
def execMoveK17m (c : BitVec 17) (rd : Reg) (cnd : Cond) (s : State) : Result :=
  conditional cnd (s.epRefusal [rd]) s (s.moveTo rd (srcC17S c) s)

/-- `mfdp Rd` (42_move_debugport.md R201). -/
def execMfdp (rd : Reg) (s : State) : Result :=
  conditional .alw (s.epRefusal [rd]) s (s.moveTo rd s.dbiWord s.readDbi)

/-- `mtdp Rs` (42_move_debugport.md R202). -/
def execMtdp (rs : Reg) (s : State) : Result :=
  conditional .alw (s.epRefusal [rs]) s (.next { s with dbo := s.readReg rs }.advance)

end Sys2Proof.Machine
end

