-- ==== Sys2Proof/Machine/Multiply.lean ====
section
/-! DEFINITION. The multiply and byte order instructions (46_multiply_endian.md). -/

namespace Sys2Proof.Machine

/-- The low 32 bits of the product (46_multiply_endian.md R260). -/
def multiplyLow (src0 src1 : Word) (rd : Reg) (s : State) : State :=
  let r := src1 * src0
  s.writeReg rd r

/-- `mult Rs0,Rs1,Rd,CND` (46_multiply_endian.md R260). -/
def execMult (rs0 rs1 rd : Reg) (cnd : Cond) (s : State) : Result :=
  compute [rs0, rs1, rd] cnd s (multiplyLow (s.readReg rs0) (s.readReg rs1) rd s)

/-- The high 32 bits of the unsigned product (R261). -/
def multiplyHighUnsigned (src0 src1 : Word) (rd : Reg) (s : State) : State :=
  let r := BitVec.ofNat 32 (src1.toNat * src0.toNat / 2 ^ 32)
  s.writeReg rd r

/-- `mlhu Rs0,Rs1,Rd,CND` (46_multiply_endian.md R261). -/
def execMlhu (rs0 rs1 rd : Reg) (cnd : Cond) (s : State) : Result :=
  compute [rs0, rs1, rd] cnd s (multiplyHighUnsigned (s.readReg rs0) (s.readReg rs1) rd s)

/-- The high 32 bits of the signed product, rounded down (R262). -/
def multiplyHighSigned (src0 src1 : Word) (rd : Reg) (s : State) : State :=
  let r := BitVec.ofInt 32 (src1.toInt * src0.toInt / 2 ^ 32)
  s.writeReg rd r

/-- `mlhs Rs0,Rs1,Rd,CND` (46_multiply_endian.md R262). -/
def execMlhs (rs0 rs1 rd : Reg) (cnd : Cond) (s : State) : Result :=
  compute [rs0, rs1, rd] cnd s (multiplyHighSigned (s.readReg rs0) (s.readReg rs1) rd s)

/-- The low 32 bits of the product with an unsigned constant (R263). -/
def multiplyConstantUnsigned (src0 src1 : Word) (rd : Reg) (s : State) : State :=
  let r := src0 * src1
  s.writeReg rd r

/-- `mlcu C16U,Rs1,Rd` (46_multiply_endian.md R263). -/
def execMlcu (c : BitVec 16) (rs1 rd : Reg) (s : State) : Result :=
  compute [rs1, rd] .alw s (multiplyConstantUnsigned (srcC16U c) (s.readReg rs1) rd s)

/-- The low 32 bits of the product with a signed constant (R264). -/
def multiplyConstantSigned (src0 src1 : Word) (rd : Reg) (s : State) : State :=
  let r := src0 * src1
  s.writeReg rd r

/-- `mlcs C16S,Rs1,Rd` (46_multiply_endian.md R264). -/
def execMlcs (c : BitVec 16) (rs1 rd : Reg) (s : State) : Result :=
  compute [rs1, rd] .alw s (multiplyConstantSigned (srcC16S c) (s.readReg rs1) rd s)

/-- Bytes 0 and 1 swapped (R265). -/
def swapShort (src : Word) (rd : Reg) (s : State) : State :=
  s.writeReg rd ((src &&& 0xFFFF0000#32) ||| ((src &&& 0xFF#32) <<< 8) ||| ((src >>> 8) &&& 0xFF#32))

/-- `ibos Rs,Rd,CND` (46_multiply_endian.md R265). -/
def execIbos (rs rd : Reg) (cnd : Cond) (s : State) : Result :=
  compute [rs, rd] cnd s (swapShort (s.readReg rs) rd s)

/-- Byte order reversed (R266). -/
def reverseBytes (src : Word) (rd : Reg) (s : State) : State :=
  s.writeReg rd (((src &&& 0xFF#32) <<< 24) ||| ((src &&& 0xFF00#32) <<< 8) ||| ((src >>> 8) &&& 0xFF00#32) ||| (src >>> 24))

/-- `ibol Rs,Rd,CND` (46_multiply_endian.md R266). -/
def execIbol (rs rd : Reg) (cnd : Cond) (s : State) : Result :=
  compute [rs, rd] cnd s (reverseBytes (s.readReg rs) rd s)

end Sys2Proof.Machine
end

