-- ==== Sys2Proof/Machine/ShiftBit.lean ====
section
/-! DEFINITION. The shift and bit manipulation instructions (45_shift_bit.md). -/

namespace Sys2Proof.Machine

/-- Left shift with zero fill (45_shift_bit.md R241). -/
def shiftLeft (src : Word) (k : Nat) : Word := src <<< k

/-- `shlz SHC5U,Rs1,Rd,CND` (45_shift_bit.md R241). -/
def execShlzK5 (k : BitVec 5) (rs1 rd : Reg) (cnd : Cond) (s : State) : Result :=
  compute [rs1, rd] cnd s (s.writeReg rd (shiftLeft (s.readReg rs1) k.toNat))

/-- `shlz Rs0,Rs1,Rd,CND` (45_shift_bit.md R241). -/
def execShlzTri (rs0 rs1 rd : Reg) (cnd : Cond) (s : State) : Result :=
  compute [rs0, rs1, rd] cnd s (s.writeReg rd (shiftLeft (s.readReg rs1) (lowFive (s.readReg rs0))))

/-- Left shift with feedback; a count of 0 is the identity (R242). -/
def rotateLeft (src : Word) (k : Nat) : Word := 
  if k = 0 then src else (src <<< k) ||| (src >>> (32 - k))

/-- `shlf SHC5U,Rs1,Rd,CND` (45_shift_bit.md R242). -/
def execShlfK5 (k : BitVec 5) (rs1 rd : Reg) (cnd : Cond) (s : State) : Result :=
  compute [rs1, rd] cnd s (s.writeReg rd (rotateLeft (s.readReg rs1) k.toNat))

/-- `shlf Rs0,Rs1,Rd,CND` (45_shift_bit.md R242). -/
def execShlfTri (rs0 rs1 rd : Reg) (cnd : Cond) (s : State) : Result :=
  compute [rs0, rs1, rd] cnd s (s.writeReg rd (rotateLeft (s.readReg rs1) (lowFive (s.readReg rs0))))

/-- Right shift with zero fill (R243). -/
def shiftRight (src : Word) (k : Nat) : Word := src >>> k

/-- `shru SHC5U,Rs1,Rd,CND` (45_shift_bit.md R243). -/
def execShruK5 (k : BitVec 5) (rs1 rd : Reg) (cnd : Cond) (s : State) : Result :=
  compute [rs1, rd] cnd s (s.writeReg rd (shiftRight (s.readReg rs1) k.toNat))

/-- `shru Rs0,Rs1,Rd,CND` (45_shift_bit.md R243). -/
def execShruTri (rs0 rs1 rd : Reg) (cnd : Cond) (s : State) : Result :=
  compute [rs0, rs1, rd] cnd s (s.writeReg rd (shiftRight (s.readReg rs1) (lowFive (s.readReg rs0))))

/-- Right shift that keeps the sign; a count of 0 is the identity (R244). -/
def shiftRightSigned (src : Word) (k : Nat) : Word := 
  if src.msb && k != 0 then (src >>> k) ||| (0xFFFFFFFF#32 <<< (32 - k)) else src >>> k

/-- `shrs SHC5U,Rs1,Rd,CND` (45_shift_bit.md R244). -/
def execShrsK5 (k : BitVec 5) (rs1 rd : Reg) (cnd : Cond) (s : State) : Result :=
  compute [rs1, rd] cnd s (s.writeReg rd (shiftRightSigned (s.readReg rs1) k.toNat))

/-- `shrs Rs0,Rs1,Rd,CND` (45_shift_bit.md R244). -/
def execShrsTri (rs0 rs1 rd : Reg) (cnd : Cond) (s : State) : Result :=
  compute [rs0, rs1, rd] cnd s (s.writeReg rd (shiftRightSigned (s.readReg rs1) (lowFive (s.readReg rs0))))

/-- The word with bit b set. -/
def bitMask (b : Nat) : Word := 1#32 <<< b

/-- Bit b set (R245). -/
def setBit (src : Word) (b : Nat) : Word := src ||| bitMask b

/-- `btst BTI5U,Rs1,Rd,CND` (45_shift_bit.md R245). -/
def execBtstK5 (k : BitVec 5) (rs1 rd : Reg) (cnd : Cond) (s : State) : Result :=
  compute [rs1, rd] cnd s (s.writeReg rd (setBit (s.readReg rs1) k.toNat))

/-- `btst Rs0,Rs1,Rd,CND` (45_shift_bit.md R245). -/
def execBtstTri (rs0 rs1 rd : Reg) (cnd : Cond) (s : State) : Result :=
  compute [rs0, rs1, rd] cnd s (s.writeReg rd (setBit (s.readReg rs1) (lowFive (s.readReg rs0))))

/-- Bit b cleared (R246). -/
def clearBit (src : Word) (b : Nat) : Word := src &&& ~~~(bitMask b)

/-- `btcl BTI5U,Rs1,Rd,CND` (45_shift_bit.md R246). -/
def execBtclK5 (k : BitVec 5) (rs1 rd : Reg) (cnd : Cond) (s : State) : Result :=
  compute [rs1, rd] cnd s (s.writeReg rd (clearBit (s.readReg rs1) k.toNat))

/-- `btcl Rs0,Rs1,Rd,CND` (45_shift_bit.md R246). -/
def execBtclTri (rs0 rs1 rd : Reg) (cnd : Cond) (s : State) : Result :=
  compute [rs0, rs1, rd] cnd s (s.writeReg rd (clearBit (s.readReg rs1) (lowFive (s.readReg rs0))))

/-- Bit b toggled (R247). -/
def toggleBit (src : Word) (b : Nat) : Word := src ^^^ bitMask b

/-- `bttg BTI5U,Rs1,Rd,CND` (45_shift_bit.md R247). -/
def execBttgK5 (k : BitVec 5) (rs1 rd : Reg) (cnd : Cond) (s : State) : Result :=
  compute [rs1, rd] cnd s (s.writeReg rd (toggleBit (s.readReg rs1) k.toNat))

/-- `bttg Rs0,Rs1,Rd,CND` (45_shift_bit.md R247). -/
def execBttgTri (rs0 rs1 rd : Reg) (cnd : Cond) (s : State) : Result :=
  compute [rs0, rs1, rd] cnd s (s.writeReg rd (toggleBit (s.readReg rs1) (lowFive (s.readReg rs0))))

/-- The flags of a bit test; no register is written (R248). -/
def testBit (b : Nat) (src : Word) (s : State) : State := s.setFlags (testFlags (src &&& bitMask b))

/-- `btts BTI5U,Rs1,CND` (45_shift_bit.md R248). -/
def execBttsK5t (k : BitVec 5) (rs1 : Reg) (cnd : Cond) (s : State) : Result :=
  compute [rs1] cnd s (testBit k.toNat (s.readReg rs1) s)

/-- `btts Rs0,Rs1,CND` (45_shift_bit.md R248). -/
def execBttsTrit (rs0 rs1 : Reg) (cnd : Cond) (s : State) : Result :=
  compute [rs0, rs1] cnd s (testBit (lowFive (s.readReg rs0)) (s.readReg rs1) s)

end Sys2Proof.Machine
end

