-- ==== Sys2Proof/Machine/Dispatch.lean ====
section
/-! DEFINITION. One arm per instruction form: each calls its meaning. -/

namespace Sys2Proof.Machine

def exec (i : Instr) (s : State) : Host.Outcome State Fault Refusal :=
  match i with
  | .subfTri rs0 rs1 rd cnd => Sys2Proof.Machine.execSubfTri rs0 rs1 rd cnd s
  | .addtTri rs0 rs1 rd cnd => Sys2Proof.Machine.execAddtTri rs0 rs1 rd cnd s
  | .subcTri rs0 rs1 rd cnd => Sys2Proof.Machine.execSubcTri rs0 rs1 rd cnd s
  | .addcTri rs0 rs1 rd cnd => Sys2Proof.Machine.execAddcTri rs0 rs1 rd cnd s
  | .andbTri rs0 rs1 rd cnd => Sys2Proof.Machine.execAndbTri rs0 rs1 rd cnd s
  | .iorbTri rs0 rs1 rd cnd => Sys2Proof.Machine.execIorbTri rs0 rs1 rd cnd s
  | .xorbTri rs0 rs1 rd cnd => Sys2Proof.Machine.execXorbTri rs0 rs1 rd cnd s
  | .mult rs0 rs1 rd cnd => Sys2Proof.Machine.execMult rs0 rs1 rd cnd s
  | .mlhu rs0 rs1 rd cnd => Sys2Proof.Machine.execMlhu rs0 rs1 rd cnd s
  | .mlhs rs0 rs1 rd cnd => Sys2Proof.Machine.execMlhs rs0 rs1 rd cnd s
  | .moveDual rs rd cnd => Sys2Proof.Machine.execMoveDual rs rd cnd s
  | .negt rs rd cnd => Sys2Proof.Machine.execNegt rs rd cnd s
  | .absl rs rd cnd => Sys2Proof.Machine.execAbsl rs rd cnd s
  | .invt rs rd cnd => Sys2Proof.Machine.execInvt rs rd cnd s
  | .clzr rs rd cnd => Sys2Proof.Machine.execClzr rs rd cnd s
  | .ibos rs rd cnd => Sys2Proof.Machine.execIbos rs rd cnd s
  | .ibol rs rd cnd => Sys2Proof.Machine.execIbol rs rd cnd s
  | .shlzK5 k rs1 rd cnd => Sys2Proof.Machine.execShlzK5 k rs1 rd cnd s
  | .shlzTri rs0 rs1 rd cnd => Sys2Proof.Machine.execShlzTri rs0 rs1 rd cnd s
  | .shruK5 k rs1 rd cnd => Sys2Proof.Machine.execShruK5 k rs1 rd cnd s
  | .shruTri rs0 rs1 rd cnd => Sys2Proof.Machine.execShruTri rs0 rs1 rd cnd s
  | .shlfK5 k rs1 rd cnd => Sys2Proof.Machine.execShlfK5 k rs1 rd cnd s
  | .shlfTri rs0 rs1 rd cnd => Sys2Proof.Machine.execShlfTri rs0 rs1 rd cnd s
  | .shrsK5 k rs1 rd cnd => Sys2Proof.Machine.execShrsK5 k rs1 rd cnd s
  | .shrsTri rs0 rs1 rd cnd => Sys2Proof.Machine.execShrsTri rs0 rs1 rd cnd s
  | .btclK5 k rs1 rd cnd => Sys2Proof.Machine.execBtclK5 k rs1 rd cnd s
  | .btclTri rs0 rs1 rd cnd => Sys2Proof.Machine.execBtclTri rs0 rs1 rd cnd s
  | .btstK5 k rs1 rd cnd => Sys2Proof.Machine.execBtstK5 k rs1 rd cnd s
  | .btstTri rs0 rs1 rd cnd => Sys2Proof.Machine.execBtstTri rs0 rs1 rd cnd s
  | .bttgK5 k rs1 rd cnd => Sys2Proof.Machine.execBttgK5 k rs1 rd cnd s
  | .bttgTri rs0 rs1 rd cnd => Sys2Proof.Machine.execBttgTri rs0 rs1 rd cnd s
  | .bttsK5t k rs1 cnd => Sys2Proof.Machine.execBttsK5t k rs1 cnd s
  | .bttsTrit rs0 rs1 cnd => Sys2Proof.Machine.execBttsTrit rs0 rs1 cnd s
  | .compCmpr rs0 rs1 => Sys2Proof.Machine.execCompCmpr rs0 rs1 s
  | .cmpcCmpr rs0 rs1 => Sys2Proof.Machine.execCmpcCmpr rs0 rs1 s
  | .mtdp rs => Sys2Proof.Machine.execMtdp rs s
  | .mfdp rd => Sys2Proof.Machine.execMfdp rd s
  | .subfK12 c rs1 rd cnd => Sys2Proof.Machine.execSubfK12 c rs1 rd cnd s
  | .addtK12 c rs1 rd cnd => Sys2Proof.Machine.execAddtK12 c rs1 rd cnd s
  | .subcK12 c rs1 rd cnd => Sys2Proof.Machine.execSubcK12 c rs1 rd cnd s
  | .addcK12 c rs1 rd cnd => Sys2Proof.Machine.execAddcK12 c rs1 rd cnd s
  | .moveK17m c rd cnd => Sys2Proof.Machine.execMoveK17m c rd cnd s
  | .subfK16 c rs1 rd => Sys2Proof.Machine.execSubfK16 c rs1 rd s
  | .addtK16 c rs1 rd => Sys2Proof.Machine.execAddtK16 c rs1 rd s
  | .andbK16 c rs1 rd => Sys2Proof.Machine.execAndbK16 c rs1 rd s
  | .iorbK16 c rs1 rd => Sys2Proof.Machine.execIorbK16 c rs1 rd s
  | .xorbK16 c rs1 rd => Sys2Proof.Machine.execXorbK16 c rs1 rd s
  | .addh hi rs1 rd => Sys2Proof.Machine.execAddh hi rs1 rd s
  | .mlcu c rs1 rd => Sys2Proof.Machine.execMlcu c rs1 rd s
  | .mlcs c rs1 rd => Sys2Proof.Machine.execMlcs c rs1 rd s
  | .compK17c c rs1 => Sys2Proof.Machine.execCompK17c c rs1 s
  | .cmpcK17c c rs1 => Sys2Proof.Machine.execCmpcK17c c rs1 s
  | .ldbzLsd da rd cnd => Sys2Proof.Machine.execLdbzLsd da rd cnd s
  | .ldbzLso dof an rd cnd => Sys2Proof.Machine.execLdbzLso dof an rd cnd s
  | .ldbzLsu an au rd cnd => Sys2Proof.Machine.execLdbzLsu an au rd cnd s
  | .ldbzLsr an ru rd cnd => Sys2Proof.Machine.execLdbzLsr an ru rd cnd s
  | .ldbzLsx rx an rd cnd => Sys2Proof.Machine.execLdbzLsx rx an rd cnd s
  | .ldbzRgsi an sel => Sys2Proof.Machine.execLdbzRgsi an sel s
  | .ldbzRgsd an sel => Sys2Proof.Machine.execLdbzRgsd an sel s
  | .ldbsLsd da rd cnd => Sys2Proof.Machine.execLdbsLsd da rd cnd s
  | .ldbsLso dof an rd cnd => Sys2Proof.Machine.execLdbsLso dof an rd cnd s
  | .ldbsLsu an au rd cnd => Sys2Proof.Machine.execLdbsLsu an au rd cnd s
  | .ldbsLsr an ru rd cnd => Sys2Proof.Machine.execLdbsLsr an ru rd cnd s
  | .ldbsLsx rx an rd cnd => Sys2Proof.Machine.execLdbsLsx rx an rd cnd s
  | .ldbsRgsi an sel => Sys2Proof.Machine.execLdbsRgsi an sel s
  | .ldbsRgsd an sel => Sys2Proof.Machine.execLdbsRgsd an sel s
  | .ldszLsd da rd cnd => Sys2Proof.Machine.execLdszLsd da rd cnd s
  | .ldszLso dof an rd cnd => Sys2Proof.Machine.execLdszLso dof an rd cnd s
  | .ldszLsu an au rd cnd => Sys2Proof.Machine.execLdszLsu an au rd cnd s
  | .ldszLsr an ru rd cnd => Sys2Proof.Machine.execLdszLsr an ru rd cnd s
  | .ldszLsx rx an rd cnd => Sys2Proof.Machine.execLdszLsx rx an rd cnd s
  | .ldszRgsi an sel => Sys2Proof.Machine.execLdszRgsi an sel s
  | .ldszRgsd an sel => Sys2Proof.Machine.execLdszRgsd an sel s
  | .ldssLsd da rd cnd => Sys2Proof.Machine.execLdssLsd da rd cnd s
  | .ldssLso dof an rd cnd => Sys2Proof.Machine.execLdssLso dof an rd cnd s
  | .ldssLsu an au rd cnd => Sys2Proof.Machine.execLdssLsu an au rd cnd s
  | .ldssLsr an ru rd cnd => Sys2Proof.Machine.execLdssLsr an ru rd cnd s
  | .ldssLsx rx an rd cnd => Sys2Proof.Machine.execLdssLsx rx an rd cnd s
  | .ldssRgsi an sel => Sys2Proof.Machine.execLdssRgsi an sel s
  | .ldssRgsd an sel => Sys2Proof.Machine.execLdssRgsd an sel s
  | .ldlgLsd da rd cnd => Sys2Proof.Machine.execLdlgLsd da rd cnd s
  | .ldlgLso dof an rd cnd => Sys2Proof.Machine.execLdlgLso dof an rd cnd s
  | .ldlgLsu an au rd cnd => Sys2Proof.Machine.execLdlgLsu an au rd cnd s
  | .ldlgLsr an ru rd cnd => Sys2Proof.Machine.execLdlgLsr an ru rd cnd s
  | .ldlgLsx rx an rd cnd => Sys2Proof.Machine.execLdlgLsx rx an rd cnd s
  | .ldlgRgsi an sel => Sys2Proof.Machine.execLdlgRgsi an sel s
  | .ldlgRgsd an sel => Sys2Proof.Machine.execLdlgRgsd an sel s
  | .stbtLsd rs da cnd => Sys2Proof.Machine.execStbtLsd rs da cnd s
  | .stbtLso rs dof an cnd => Sys2Proof.Machine.execStbtLso rs dof an cnd s
  | .stbtLsu rs an au cnd => Sys2Proof.Machine.execStbtLsu rs an au cnd s
  | .stbtLsr rs an ru cnd => Sys2Proof.Machine.execStbtLsr rs an ru cnd s
  | .stbtLsx rs rx an cnd => Sys2Proof.Machine.execStbtLsx rs rx an cnd s
  | .stbtRgsi sel an => Sys2Proof.Machine.execStbtRgsi sel an s
  | .stbtRgsd sel an => Sys2Proof.Machine.execStbtRgsd sel an s
  | .stlgLsd rs da cnd => Sys2Proof.Machine.execStlgLsd rs da cnd s
  | .stlgLso rs dof an cnd => Sys2Proof.Machine.execStlgLso rs dof an cnd s
  | .stlgLsu rs an au cnd => Sys2Proof.Machine.execStlgLsu rs an au cnd s
  | .stlgLsr rs an ru cnd => Sys2Proof.Machine.execStlgLsr rs an ru cnd s
  | .stlgLsx rs rx an cnd => Sys2Proof.Machine.execStlgLsx rs rx an cnd s
  | .stlgRgsi sel an => Sys2Proof.Machine.execStlgRgsi sel an s
  | .stlgRgsd sel an => Sys2Proof.Machine.execStlgRgsd sel an s
  | .stshLsd rs da cnd => Sys2Proof.Machine.execStshLsd rs da cnd s
  | .stshLso rs dof an cnd => Sys2Proof.Machine.execStshLso rs dof an cnd s
  | .stshLsu rs an au cnd => Sys2Proof.Machine.execStshLsu rs an au cnd s
  | .stshLsr rs an ru cnd => Sys2Proof.Machine.execStshLsr rs an ru cnd s
  | .stshLsx rs rx an cnd => Sys2Proof.Machine.execStshLsx rs rx an cnd s
  | .stshRgsi sel an => Sys2Proof.Machine.execStshRgsi sel an s
  | .stshRgsd sel an => Sys2Proof.Machine.execStshRgsd sel an s
  | .brnc off hint => Sys2Proof.Machine.execBrnc off hint s
  | .brcr off hint => Sys2Proof.Machine.execBrcr off hint s
  | .brno off hint => Sys2Proof.Machine.execBrno off hint s
  | .brof off hint => Sys2Proof.Machine.execBrof off hint s
  | .brnz off hint => Sys2Proof.Machine.execBrnz off hint s
  | .brzr off hint => Sys2Proof.Machine.execBrzr off hint s
  | .brps off hint => Sys2Proof.Machine.execBrps off hint s
  | .brng off hint => Sys2Proof.Machine.execBrng off hint s
  | .brls off hint => Sys2Proof.Machine.execBrls off hint s
  | .brhi off hint => Sys2Proof.Machine.execBrhi off hint s
  | .brlo off hint => Sys2Proof.Machine.execBrlo off hint s
  | .brge off hint => Sys2Proof.Machine.execBrge off hint s
  | .brle off hint => Sys2Proof.Machine.execBrle off hint s
  | .brgt off hint => Sys2Proof.Machine.execBrgt off hint s
  | .brlc off => Sys2Proof.Machine.execBrlc off s
  | .jumpImp => Sys2Proof.Machine.execJumpImp s
  | .jpsrImp => Sys2Proof.Machine.execJpsrImp s
  | .rtsr => Sys2Proof.Machine.execRtsr s
  | .rtir => Sys2Proof.Machine.execRtir s
  | .stop => Sys2Proof.Machine.execStop s
  | .svpc => Sys2Proof.Machine.execSvpc s
  | .rspc => Sys2Proof.Machine.execRspc s
  | .stie => Sys2Proof.Machine.execStie s
  | .clie => Sys2Proof.Machine.execClie s
  | .rsie => Sys2Proof.Machine.execRsie s
  | .scie => Sys2Proof.Machine.execScie s
  | .jumpJa ia => Sys2Proof.Machine.execJumpJa ia s
  | .jpsrJa ia => Sys2Proof.Machine.execJpsrJa ia s

end Sys2Proof.Machine
end

