-- ==== Sys2Proof/Machine/Cycle.lean ====
section
/-! DEFINITION. What one step does (40_operands_and_conditions.md R130, 60_exceptions.md R331, R343 to R346): the inputs,
the boundary events, the fetch, and the injection of instructions. `Step.lean` calls it. -/

namespace Sys2Proof.Machine

/-- The opcode the debug module's comparators put in place of a fetched word (60_exceptions.md R347). -/
def stopWord : Word := encode .stop

/-- What the environment drives at this step (log 20). -/
def State.nextInputs (s : State) : Inputs := s.inputs.headD Inputs.quiet

/-- The step begins: one entry of the input script is consumed, DBI takes its value, and the events of the previous
step are over. -/
def State.begin (s : State) : State :=
  { s with inputs := s.inputs.tail, dbi := s.nextInputs.dbi, iack := none, bus := [] }

/-- Decode a word and run it (30_encoding.md R93, R103). -/
def runWord (w : Word) (s : State) : Result :=
  match decode w with
  | .ok i => exec i s
  | .error _ => .refused (.unassigned w)

/-- The state in which a fetched instruction runs: the fetch has been signalled and `lia` holds its address
(20_memory.md R68, 48_debug_misc.md R310). -/
def State.fetched (s : State) : State :=
  { s.signal { space := .code, written := none, addr := s.pc, size := .long, som := s.cs.ir } with lia := s.pc }

/-- Fetch at pc and run (40_operands_and_conditions.md R130 steps 3 to 5). -/
def fetchRun (breakpoint : Bool) (s : State) : Result :=
  unlessStopped (s.fetchStop (wordAligned s.pc))
    (runWord (if breakpoint then stopWord else s.codeWord (wordAligned s.pc)) s.fetched)

/-- STRQ seen at a boundary of a running core (60_exceptions.md R343): it stops with pc at the next instruction. -/
def State.enterStopped (s : State) : State := { s with stopped := true, strqSeen := true }

/-- The debug module's direct writes, which act on a stopped core (60_exceptions.md R342). -/
def State.pokeAll (s : State) (ps : List Poke) : State := ps.foldl State.poke s

/-- A step of the stopped core (60_exceptions.md R344 to R346): direct writes, then an injected instruction if INJI is
asserted, else the release if STRQ has gone from asserted to de-asserted, else nothing. -/
def stoppedStep (inp : Inputs) (s : State) : Result :=
  let s1 := { s.pokeAll inp.pokes with strqSeen := s.strqSeen || inp.strq }
  match inp.inji with
  | some w => runWord w s1
  | none =>
    if s.strqSeen && !inp.strq then .next { s1 with stopped := false, strqSeen := false }
    else .next s1

/-- Whether a request is acknowledged at this boundary (60_exceptions.md R323). -/
def State.acknowledges (s : State) (inp : Inputs) : Bool := inp.irq && s.cs.ie && !s.cs.ir

/-- One step under the inputs `inp` (60_exceptions.md R331): reset, the stopped state, STRQ, an interrupt request, the
instruction, in this order. -/
def cycleWith (inp : Inputs) (s : State) : Result :=
  if inp.reset then .next (s.coldStart inp.irn)
  else if s.stopped then stoppedStep inp s
  else if inp.strq then .next s.enterStopped
  else if s.acknowledges inp then externalInterrupt inp.irn s
  else fetchRun inp.breakpoint s

/-- One step of the machine. -/
def cycle (s : State) : Result := cycleWith s.nextInputs s.begin

/-- The state in which the very next step fetches and runs the instruction whose low `nbits` bits are those of `w`: the
word stands in instruction memory at pc, the core runs, and no input is asserted (log 33). -/
def State.placeWord (s : State) (nbits w : Nat) : State :=
  { s.putCode (wordAligned s.pc) (BitVec.ofNat 32 (w % 2 ^ nbits)) with stopped := false, strqSeen := false, inputs := [] }

end Sys2Proof.Machine
end

