-- ==== Sys2Proof/Safety.lean ====
section
/-! DEFINITION. The terms the statements are written in: what an instruction leaves alone, the exact results of the
arithmetic, the forms of a family as one function, and the invariant of the machine. -/

namespace Sys2Proof.Machine

/-! ### What an instruction leaves alone -/

/-- Where an instruction that sets no pc of its own leaves pc: the next word, or, for an injected instruction, where it
was (40_operands_and_conditions.md R130, 60_exceptions.md R345). -/
def State.follow (s : State) : Word := if s.stopped then s.pc else s.pc + 4#32

/-- Every register but those listed reads as before. -/
def KeepsRegs (s t : State) (but : List Reg) : Prop := ∀ r, r ∉ but → t.readReg r = s.readReg r

/-- Both memories hold what they held, byte for byte. -/
structure KeepsMemory (s t : State) : Prop where
  data : ∀ a, t.dataByte a = s.dataByte a
  code : ∀ a, t.imem.read a = s.imem.read a

/-- Everything that is neither a register, nor pc, nor a bus trace, nor memory is as before: the hidden flags, the
stopped state, the debug port, the inputs and outputs, the parameters. -/
structure KeepsRest (s t : State) : Prop where
  hcc : t.hcc = s.hcc
  hccSaved : t.hccSaved = s.hccSaved
  stopped : t.stopped = s.stopped
  strqSeen : t.strqSeen = s.strqSeen
  lia : t.lia = s.lia
  dbo : t.dbo = s.dbo
  iack : t.iack = s.iack
  inputs : t.inputs = s.inputs
  dbi : t.dbi = s.dbi
  draws : t.draws = s.draws
  params : t.params = s.params

/-- The state after a computation instruction that wrote `v` to a general register and `f` to CC: nothing else but pc
differs. -/
def State.computed (s : State) (d : Gpr) (v : Word) (f : Flags) : State :=
  { s with gprs := s.gprs.set d v, cc := f, pc := s.follow }

/-- The state after an instruction that performed no operation (40_operands_and_conditions.md R132). -/
def State.idled (s : State) : State := { s with pc := s.follow }

/-- An instruction with a condition: `effect` where the condition holds, no operation where it does not
(40_operands_and_conditions.md R131, R132). -/
def UnderCondition (c : Cond) (s : State) (i : Instr) (effect : Prop) : Prop :=
  (condHolds c s.cc = true → effect) ∧
    (c.defined = true → condHolds c s.cc = false → exec i s = .next s.idled)

/-- What a register reads as after the value `v` has been written to it where no security exception is due; `old` is what
it read before (10_state.md R44). -/
def writeView (r : Reg) (old v : Word) : Word :=
  match r with
  | .gpr _ | .lc | .ep => v
  | .cc => v &&& 0xF#32
  | .cs => (v &&& 0xFFFFFFC0#32) ||| (old &&& 0x7#32)
  | .ta | .sa | .ia => v &&& 0xFFFFFFFC#32
  | .id => old

/-- EP may be named: it is not among the registers, or the parameter gives it a behaviour (10_state.md R37). -/
def EpUsable (s : State) (regs : List Reg) : Prop := Reg.ep ∈ regs → s.params.ep = .storage

/-! ### Exact arithmetic (43_arithmetic.md R210: carry, borrow and signed overflow as facts about numbers) -/

/-- `src1 + src0 + carry`, modulo 2^32. -/
def sumOf (src1 src0 : Word) (cin : Bool) : Word := BitVec.ofNat 32 (src1.toNat + src0.toNat + cin.toNat)

/-- The flags of `src1 + src0 + carry`: C when the unsigned sum does not fit, O when the signed sum does not. `zin` is
what Z is limited by. -/
def sumFlags (src1 src0 : Word) (cin zin : Bool) : Flags where
  n := decide ((sumOf src1 src0 cin).toInt < 0)
  z := zin && decide (sumOf src1 src0 cin = 0)
  o := decide ((sumOf src1 src0 cin).toInt ≠ src1.toInt + src0.toInt + cin.toNat)
  c := decide (2 ^ 32 ≤ src1.toNat + src0.toNat + cin.toNat)

/-- `src1 - src0 - borrow`, modulo 2^32. -/
def differenceOf (src1 src0 : Word) (bin : Bool) : Word := BitVec.ofInt 32 (src1.toNat - src0.toNat - bin.toNat)

/-- The flags of `src1 - src0 - borrow`: C when the unsigned difference needs a borrow, O when the signed difference does
not fit. -/
def differenceFlags (src1 src0 : Word) (bin zin : Bool) : Flags where
  n := decide ((differenceOf src1 src0 bin).toInt < 0)
  z := zin && decide (differenceOf src1 src0 bin = 0)
  o := decide ((differenceOf src1 src0 bin).toInt ≠ src1.toInt - src0.toInt - bin.toNat)
  c := decide (src1.toNat < src0.toNat + bin.toNat)

/-- How many bits of a word are 1. -/
def onesIn (w : Word) : Nat := ((List.range 32).filter w.getLsbD).length

/-! ### The forms of a family -/

/-- The single-register form of a load (41_load_store.md R175 to R179). -/
def LoadKind.form (k : LoadKind) (m : AddrMode) (rd : Reg) (cnd : Cond) : Instr :=
  match k, m with
  | .bz, .direct da => .ldbzLsd da rd cnd
  | .bz, .offset dof an => .ldbzLso dof an rd cnd
  | .bz, .index rx an => .ldbzLsx rx an rd cnd
  | .bz, .update an au => .ldbzLsu an au rd cnd
  | .bz, .regUpdate an ru => .ldbzLsr an ru rd cnd
  | .bs, .direct da => .ldbsLsd da rd cnd
  | .bs, .offset dof an => .ldbsLso dof an rd cnd
  | .bs, .index rx an => .ldbsLsx rx an rd cnd
  | .bs, .update an au => .ldbsLsu an au rd cnd
  | .bs, .regUpdate an ru => .ldbsLsr an ru rd cnd
  | .sz, .direct da => .ldszLsd da rd cnd
  | .sz, .offset dof an => .ldszLso dof an rd cnd
  | .sz, .index rx an => .ldszLsx rx an rd cnd
  | .sz, .update an au => .ldszLsu an au rd cnd
  | .sz, .regUpdate an ru => .ldszLsr an ru rd cnd
  | .ss, .direct da => .ldssLsd da rd cnd
  | .ss, .offset dof an => .ldssLso dof an rd cnd
  | .ss, .index rx an => .ldssLsx rx an rd cnd
  | .ss, .update an au => .ldssLsu an au rd cnd
  | .ss, .regUpdate an ru => .ldssLsr an ru rd cnd
  | .lg, .direct da => .ldlgLsd da rd cnd
  | .lg, .offset dof an => .ldlgLso dof an rd cnd
  | .lg, .index rx an => .ldlgLsx rx an rd cnd
  | .lg, .update an au => .ldlgLsu an au rd cnd
  | .lg, .regUpdate an ru => .ldlgLsr an ru rd cnd

/-- The single-register form of a store (41_load_store.md R180 to R182). -/
def Size.form (sz : Size) (rs : Reg) (m : AddrMode) (cnd : Cond) : Instr :=
  match sz, m with
  | .byte, .direct da => .stbtLsd rs da cnd
  | .byte, .offset dof an => .stbtLso rs dof an cnd
  | .byte, .index rx an => .stbtLsx rs rx an cnd
  | .byte, .update an au => .stbtLsu rs an au cnd
  | .byte, .regUpdate an ru => .stbtLsr rs an ru cnd
  | .short, .direct da => .stshLsd rs da cnd
  | .short, .offset dof an => .stshLso rs dof an cnd
  | .short, .index rx an => .stshLsx rs rx an cnd
  | .short, .update an au => .stshLsu rs an au cnd
  | .short, .regUpdate an ru => .stshLsr rs an ru cnd
  | .long, .direct da => .stlgLsd rs da cnd
  | .long, .offset dof an => .stlgLso rs dof an cnd
  | .long, .index rx an => .stlgLsx rs rx an cnd
  | .long, .update an au => .stlgLsu rs an au cnd
  | .long, .regUpdate an ru => .stlgLsr rs an ru cnd

/-- The RGS form of a load (41_load_store.md R173, R174). -/
def LoadKind.rgsForm (k : LoadKind) (d : RgsMode) (an : AReg) (sel : RegSel) : Instr :=
  match k, d with
  | .bz, .up => .ldbzRgsi an sel
  | .bz, .down => .ldbzRgsd an sel
  | .bs, .up => .ldbsRgsi an sel
  | .bs, .down => .ldbsRgsd an sel
  | .sz, .up => .ldszRgsi an sel
  | .sz, .down => .ldszRgsd an sel
  | .ss, .up => .ldssRgsi an sel
  | .ss, .down => .ldssRgsd an sel
  | .lg, .up => .ldlgRgsi an sel
  | .lg, .down => .ldlgRgsd an sel

/-- The RGS form of a store (41_load_store.md R173, R174). -/
def Size.rgsForm (sz : Size) (d : RgsMode) (sel : RegSel) (an : AReg) : Instr :=
  match sz, d with
  | .byte, .up => .stbtRgsi sel an
  | .byte, .down => .stbtRgsd sel an
  | .short, .up => .stshRgsi sel an
  | .short, .down => .stshRgsd sel an
  | .long, .up => .stlgRgsi sel an
  | .long, .down => .stlgRgsd sel an

/-- The value a load gives a register of 32 bits: the little endian bytes at the aligned address, extended
(20_memory.md R63, R66, R67). -/
def LoadKind.fetched (k : LoadKind) (s : State) (eda : Word) : Word :=
  let even := eda &&& 0xFFFFFFFE#32
  let whole := eda &&& 0xFFFFFFFC#32
  match k with
  | .bz => (s.readByte eda).setWidth 32
  | .bs => (s.readByte eda).signExtend 32
  | .sz => (s.readByte (even + 1#32) ++ s.readByte even).setWidth 32
  | .ss => (s.readByte (even + 1#32) ++ s.readByte even).signExtend 32
  | .lg => s.readByte (whole + 3#32) ++ s.readByte (whole + 2#32) ++ s.readByte (whole + 1#32) ++ s.readByte whole

/-- The register an addressing mode updates, if it updates one. -/
def AddrMode.updates (m : AddrMode) : List Reg :=
  match m with
  | .update an _ | .regUpdate an _ => [an.reg]
  | _ => []

/-- No byte of an access of size `sz` at `eda` belongs to a device (20_memory.md R72). -/
def State.NoDevice (s : State) (eda : Word) (sz : Size) : Prop := ∀ a ∈ sz.addresses eda, s.regionAt a ≠ .device

/-- Every byte of an access of size `sz` at `eda` is RAM (20_memory.md R73). -/
def State.AllRam (s : State) (eda : Word) (sz : Size) : Prop := ∀ a ∈ sz.addresses eda, s.regionAt a = .ram

/-- The bytes of RAM at `eda` are the low bytes of `v`, little endian, `sz` bytes from the aligned address on
(20_memory.md R63, R67, R69). -/
def HoldsAt (t : State) (eda : Word) (sz : Size) (v : Word) : Prop :=
  ∀ i, i < sz.bytes → t.regionAt (sz.align eda + BitVec.ofNat 32 i) = .ram →
    t.dataByte (sz.align eda + BitVec.ofNat 32 i) = v.extractLsb' (8 * i) 8

/-- Every byte of both memories is as before, but for the RAM `sz` bytes wide at each of `edas`. -/
structure KeepsMemoryBut (s t : State) (sz : Size) (edas : List Word) : Prop where
  data : ∀ a, (s.regionAt a = .ram → ∀ e ∈ edas, a ∉ sz.addresses e) → t.dataByte a = s.dataByte a
  code : ∀ c, (∀ e ∈ edas, ∀ a ∈ sz.addresses e, s.codeAddr? a = some c → s.regionAt a ≠ .ram) →
    t.imem.read c = s.imem.read c

/-- Reads of an instruction on the data bus, in order, each in the mode the instruction runs in (20_memory.md R67,
R74). -/
def State.reads (s : State) (sz : Size) (edas : List Word) : List BusAccess :=
  edas.map fun e => { space := .data, written := none, addr := e, size := sz, som := s.cs.ir }

/-- Writes of an instruction on the data bus, in order: each address with the register value whose low bytes it carries
(20_memory.md R67, R69, R74). -/
def State.writes (s : State) (sz : Size) (stores : List (Word × Word)) : List BusAccess :=
  stores.map fun p =>
    { space := .data, written := some (p.2 &&& BitVec.ofNat 32 (2 ^ (8 * sz.bytes) - 1)), addr := p.1, size := sz,
      som := s.cs.ir }

/-- The conditional branch with the condition of code `c` (47_flow_control.md R276); codes 14 and 15 have none. -/
def Cond.branch (c : Cond) (off : BitVec 14) (hint : Bool) : Option Instr :=
  match c with
  | .inc => some (.brnc off hint)
  | .icr => some (.brcr off hint)
  | .ino => some (.brno off hint)
  | .iof => some (.brof off hint)
  | .inz => some (.brnz off hint)
  | .izr => some (.brzr off hint)
  | .ips => some (.brps off hint)
  | .ing => some (.brng off hint)
  | .ils => some (.brls off hint)
  | .ihi => some (.brhi off hint)
  | .ilo => some (.brlo off hint)
  | .ige => some (.brge off hint)
  | .ile => some (.brle off hint)
  | .igt => some (.brgt off hint)
  | .undef | .alw => none

/-! ### The condition field and the writers of the status registers -/

/-- The CND operand of a form that has one (40_operands_and_conditions.md R157). -/
def condOf : Instr → Option Cond
  | .subfTri _ _ _ cnd => some cnd
  | .addtTri _ _ _ cnd => some cnd
  | .subcTri _ _ _ cnd => some cnd
  | .addcTri _ _ _ cnd => some cnd
  | .andbTri _ _ _ cnd => some cnd
  | .iorbTri _ _ _ cnd => some cnd
  | .xorbTri _ _ _ cnd => some cnd
  | .mult _ _ _ cnd => some cnd
  | .mlhu _ _ _ cnd => some cnd
  | .mlhs _ _ _ cnd => some cnd
  | .moveDual _ _ cnd => some cnd
  | .negt _ _ cnd => some cnd
  | .absl _ _ cnd => some cnd
  | .invt _ _ cnd => some cnd
  | .clzr _ _ cnd => some cnd
  | .ibos _ _ cnd => some cnd
  | .ibol _ _ cnd => some cnd
  | .shlzK5 _ _ _ cnd => some cnd
  | .shlzTri _ _ _ cnd => some cnd
  | .shruK5 _ _ _ cnd => some cnd
  | .shruTri _ _ _ cnd => some cnd
  | .shlfK5 _ _ _ cnd => some cnd
  | .shlfTri _ _ _ cnd => some cnd
  | .shrsK5 _ _ _ cnd => some cnd
  | .shrsTri _ _ _ cnd => some cnd
  | .btclK5 _ _ _ cnd => some cnd
  | .btclTri _ _ _ cnd => some cnd
  | .btstK5 _ _ _ cnd => some cnd
  | .btstTri _ _ _ cnd => some cnd
  | .bttgK5 _ _ _ cnd => some cnd
  | .bttgTri _ _ _ cnd => some cnd
  | .bttsK5t _ _ cnd => some cnd
  | .bttsTrit _ _ cnd => some cnd
  | .subfK12 _ _ _ cnd => some cnd
  | .addtK12 _ _ _ cnd => some cnd
  | .subcK12 _ _ _ cnd => some cnd
  | .addcK12 _ _ _ cnd => some cnd
  | .moveK17m _ _ cnd => some cnd
  | .ldbzLsd _ _ cnd => some cnd
  | .ldbzLso _ _ _ cnd => some cnd
  | .ldbzLsu _ _ _ cnd => some cnd
  | .ldbzLsr _ _ _ cnd => some cnd
  | .ldbzLsx _ _ _ cnd => some cnd
  | .ldbsLsd _ _ cnd => some cnd
  | .ldbsLso _ _ _ cnd => some cnd
  | .ldbsLsu _ _ _ cnd => some cnd
  | .ldbsLsr _ _ _ cnd => some cnd
  | .ldbsLsx _ _ _ cnd => some cnd
  | .ldszLsd _ _ cnd => some cnd
  | .ldszLso _ _ _ cnd => some cnd
  | .ldszLsu _ _ _ cnd => some cnd
  | .ldszLsr _ _ _ cnd => some cnd
  | .ldszLsx _ _ _ cnd => some cnd
  | .ldssLsd _ _ cnd => some cnd
  | .ldssLso _ _ _ cnd => some cnd
  | .ldssLsu _ _ _ cnd => some cnd
  | .ldssLsr _ _ _ cnd => some cnd
  | .ldssLsx _ _ _ cnd => some cnd
  | .ldlgLsd _ _ cnd => some cnd
  | .ldlgLso _ _ _ cnd => some cnd
  | .ldlgLsu _ _ _ cnd => some cnd
  | .ldlgLsr _ _ _ cnd => some cnd
  | .ldlgLsx _ _ _ cnd => some cnd
  | .stbtLsd _ _ cnd => some cnd
  | .stbtLso _ _ _ cnd => some cnd
  | .stbtLsu _ _ _ cnd => some cnd
  | .stbtLsr _ _ _ cnd => some cnd
  | .stbtLsx _ _ _ cnd => some cnd
  | .stlgLsd _ _ cnd => some cnd
  | .stlgLso _ _ _ cnd => some cnd
  | .stlgLsu _ _ _ cnd => some cnd
  | .stlgLsr _ _ _ cnd => some cnd
  | .stlgLsx _ _ _ cnd => some cnd
  | .stshLsd _ _ cnd => some cnd
  | .stshLso _ _ _ cnd => some cnd
  | .stshLsu _ _ _ cnd => some cnd
  | .stshLsr _ _ _ cnd => some cnd
  | .stshLsx _ _ _ cnd => some cnd
  | _ => none

/-- The computation instructions that write CC as flags (10_state.md R30, 43_arithmetic.md R210). -/
def writesFlags : Instr → Bool
  | .addtTri .. | .addtK12 .. | .addtK16 .. | .addcTri .. | .addcK12 .. => true
  | .subfTri .. | .subfK12 .. | .subfK16 .. | .subcTri .. | .subcK12 .. => true
  | .compCmpr .. | .compK17c .. | .cmpcCmpr .. | .cmpcK17c .. => true
  | .andbTri .. | .andbK16 .. | .bttsK5t .. | .bttsTrit .. => true
  | _ => false

/-- The destination register of move and mfdp (42_move_debugport.md R200, R201). -/
def moveDest : Instr → Option Reg
  | .moveDual _ rd _ | .moveK17m _ rd _ | .mfdp rd => some rd
  | _ => none

/-- The registers an instruction names outside moves and An fields, in the positions 10_state.md R45 speaks of:
computation operands. -/
def computeOperands : Instr → Option (List Reg)
  | .subfTri rs0 rs1 rd _ => some [rs0, rs1, rd]
  | .addtTri rs0 rs1 rd _ => some [rs0, rs1, rd]
  | .subcTri rs0 rs1 rd _ => some [rs0, rs1, rd]
  | .addcTri rs0 rs1 rd _ => some [rs0, rs1, rd]
  | .andbTri rs0 rs1 rd _ => some [rs0, rs1, rd]
  | .iorbTri rs0 rs1 rd _ => some [rs0, rs1, rd]
  | .xorbTri rs0 rs1 rd _ => some [rs0, rs1, rd]
  | .mult rs0 rs1 rd _ => some [rs0, rs1, rd]
  | .mlhu rs0 rs1 rd _ => some [rs0, rs1, rd]
  | .mlhs rs0 rs1 rd _ => some [rs0, rs1, rd]
  | .negt rs rd _ => some [rs, rd]
  | .absl rs rd _ => some [rs, rd]
  | .invt rs rd _ => some [rs, rd]
  | .clzr rs rd _ => some [rs, rd]
  | .ibos rs rd _ => some [rs, rd]
  | .ibol rs rd _ => some [rs, rd]
  | .shlzK5 _ rs1 rd _ => some [rs1, rd]
  | .shlzTri rs0 rs1 rd _ => some [rs0, rs1, rd]
  | .shruK5 _ rs1 rd _ => some [rs1, rd]
  | .shruTri rs0 rs1 rd _ => some [rs0, rs1, rd]
  | .shlfK5 _ rs1 rd _ => some [rs1, rd]
  | .shlfTri rs0 rs1 rd _ => some [rs0, rs1, rd]
  | .shrsK5 _ rs1 rd _ => some [rs1, rd]
  | .shrsTri rs0 rs1 rd _ => some [rs0, rs1, rd]
  | .btclK5 _ rs1 rd _ => some [rs1, rd]
  | .btclTri rs0 rs1 rd _ => some [rs0, rs1, rd]
  | .btstK5 _ rs1 rd _ => some [rs1, rd]
  | .btstTri rs0 rs1 rd _ => some [rs0, rs1, rd]
  | .bttgK5 _ rs1 rd _ => some [rs1, rd]
  | .bttgTri rs0 rs1 rd _ => some [rs0, rs1, rd]
  | .bttsK5t _ rs1 _ => some [rs1]
  | .bttsTrit rs0 rs1 _ => some [rs0, rs1]
  | .compCmpr rs0 rs1 => some [rs0, rs1]
  | .cmpcCmpr rs0 rs1 => some [rs0, rs1]
  | .subfK12 _ rs1 rd _ => some [rs1, rd]
  | .addtK12 _ rs1 rd _ => some [rs1, rd]
  | .subcK12 _ rs1 rd _ => some [rs1, rd]
  | .addcK12 _ rs1 rd _ => some [rs1, rd]
  | .subfK16 _ rs1 rd => some [rs1, rd]
  | .addtK16 _ rs1 rd => some [rs1, rd]
  | .andbK16 _ rs1 rd => some [rs1, rd]
  | .iorbK16 _ rs1 rd => some [rs1, rd]
  | .xorbK16 _ rs1 rd => some [rs1, rd]
  | .addh _ rs1 rd => some [rs1, rd]
  | .mlcu _ rs1 rd => some [rs1, rd]
  | .mlcs _ rs1 rd => some [rs1, rd]
  | .compK17c _ rs1 => some [rs1]
  | .cmpcK17c _ rs1 => some [rs1]
  | _ => none

/-- The instructions that set pc from anything but the debug port (60_exceptions.md R345). -/
def setsPc : Instr → Bool
  | .jumpImp | .jumpJa .. | .jpsrImp | .jpsrJa .. | .rtsr | .rtir | .brlc .. => true
  | .brnc .. | .brcr .. | .brno .. | .brof .. | .brnz .. | .brzr .. | .brps .. | .brng .. => true
  | .brls .. | .brhi .. | .brlo .. | .brge .. | .brle .. | .brgt .. => true
  | _ => false

/-! ### Interrupts -/

/-- The address of entry `n` of the vector table: `(CS.IVTP << 6) + 4 * n` (60_exceptions.md R324). -/
def vectorEntry (s : State) (n : BitVec 4) : Word := (s.readReg .cs &&& 0xFFFFFFC0#32) + BitVec.ofNat 32 (4 * n.toNat)

/-- The long word a read at an aligned data address gives (20_memory.md R63). -/
def longAt (s : State) (a : Word) : Word :=
  s.readByte (a + 3#32) ++ s.readByte (a + 2#32) ++ s.readByte (a + 1#32) ++ s.readByte a

/-- What interrupt entry does with vector entry `n` and return address `ret` (60_exceptions.md R326, R328): the hidden
flags, IA, CS.IR and pc change, and nothing else but IACK, the bus trace and the counter of free values. The counter `d`
matters only where the table lies in a device. -/
structure Entered (s t : State) (n : BitVec 4) (ret : Word) : Prop where
  pc : ∃ d, t.pc = longAt { s with draws := d } (vectorEntry s n) &&& 0xFFFFFFFC#32
  hcc : t.hcc = s.cc
  hccSaved : t.hccSaved = true
  ia : t.readReg .ia = ret &&& 0xFFFFFFFC#32
  som : t.cs = { s.cs with ir := true }
  regs : KeepsRegs s t [.ia, .cs]
  memory : KeepsMemory s t
  stopped : t.stopped = s.stopped
  strqSeen : t.strqSeen = s.strqSeen
  lia : t.lia = s.lia
  dbo : t.dbo = s.dbo
  inputs : t.inputs = s.inputs
  dbi : t.dbi = s.dbi
  params : t.params = s.params
  bus : t.bus = s.bus ++ [{ space := .data, written := none, addr := vectorEntry s n, size := .long, som := true }]

/-- A step that no event disturbs and that finds the core running: no reset, no stop request and no acknowledged
interrupt, so that an instruction is fetched (40_operands_and_conditions.md R130). -/
structure Undisturbed (s : State) : Prop where
  running : s.stopped = false
  noReset : s.nextInputs.reset = false
  noStop : s.nextInputs.strq = false
  noIrq : (s.nextInputs.irq && s.cs.ie && !s.cs.ir) = false

/-- The state in which the instruction of a running core is executed: one entry of the input script is used up, and the
fetch has been signalled. -/
def State.atFetch (s : State) : State :=
  { s with
    inputs := s.inputs.tail
    dbi := s.nextInputs.dbi
    iack := none
    bus := [{ space := .code, written := none, addr := s.pc, size := .long, som := s.cs.ir }]
    lia := s.pc }

/-! ### The invariant -/

/-- Both memories are in canonical form. -/
structure Canonical (s : State) : Prop where
  data : s.dmem.wf = true
  code : s.imem.wf = true

/-- What every step keeps: both memories in canonical form, instruction addresses word aligned (10_state.md R47), the
STRQ bookkeeping bit set only in the stopped state (60_exceptions.md R346), and a legal identification word
(10_state.md R42). -/
structure Inv (s : State) : Prop where
  dataCanonical : s.dmem.wf = true
  codeCanonical : s.imem.wf = true
  pcAligned : s.pc &&& 3#32 = 0#32
  liaAligned : s.lia &&& 3#32 = 0#32
  strq : s.strqSeen = true → s.stopped = true
  legal : s.params.legal = true

end Sys2Proof.Machine
end

