-- ==== Sys2Proof/Certificates/Slice0/Obligations.lean ====
section
/-! DEFINITION. The statements about the sf32b. Each docstring names the rules of spec/ it rests on and, where a clause is
the model's own choice, the log entry that declares it. -/

open Sys2Proof Sys2Proof.Machine

/-! ### Encoding -/

/-- Decoding the word of an instruction gives the instruction back, whatever its operands (30_encoding.md sections 1 to
3). -/
def Obligations.DecodeEncode : Prop := ∀ i : Instr, decode (encode i) = .ok i

/-- A word that decodes is the word of the instruction it decodes to: the row's fixed bits and its fields are all of the
word (30_encoding.md sections 1 to 3). -/
def Obligations.EncodeDecode : Prop := ∀ (w : Word) (i : Instr), decode w = .ok i → encode i = w

/-- No word is of two rows of the opcode table (30_encoding.md R93). -/
def Obligations.RowsDisjoint : Prop :=
  opcodeTable.length = 136 ∧
    opcodeTable.Pairwise fun r r' => ∀ w : Word, ¬ (r.accepts w = true ∧ r'.accepts w = true)

/-- One word of each group, from the examples of the instruction rules, and the numbers of the operand fields: the 32
register numbers, the 16 An field values, the 16 condition codes, and the flag of each selected register in the two modes,
opcode bits 31 to 28, 25 to 16 and 10 to 6, reversed for `-(An)` (10_state.md R20, 30_encoding.md R97,
40_operands_and_conditions.md R131). -/
def Obligations.KnownWords : Prop :=
  (decode 0xF2011888 = .ok (.addtTri .r1 .r2 .r3 .alw) ∧
    decode 0x0E010080 = .ok (.compCmpr .r1 .r2) ∧
    decode 0xF6780161 = .ok (.moveK17m 0x5678 .r0 .alw) ∧
    decode 0x5403C915 = .ok (.ldszLsx .r3 9 .r4 .izr) ∧
    decode 0x9A00D825 = .ok (.ldlgRgsi 11 0b0000000000000011001) ∧
    decode 0x0C00DE75 = .ok (.stlgRgsd 0b0000000000000011001 11) ∧
    decode 0x00FFF9E6 = .ok (.brlc 0x3FFE) ∧
    decode 0x0000800E = .ok (.jumpJa 0x400) ∧
    decode 0x00000036 = .ok .rtir ∧
    decode 0x0C190000 = .ok (.mtdp .cc)) ∧
  (List.range 32).map (fun n => decode (BitVec.ofNat 32 (0x0C000000 + 2 ^ 16 * n))) =
    [Reg.r0, .r1, .r2, .r3, .r4, .r5, .r6, .r7, .r8, .r9, .ra, .rb, .rc, .rd, .re, .rf, .rp, .rq, .ru, .rv, .rw, .rx,
      .ry, .rz, .lc, .cc, .cs, .ep, .ta, .sa, .ia, .id].map (fun r => .ok (.mtdp r)) ∧
  (List.range 16).map (fun n => decode (BitVec.ofNat 32 (0xF0008004 + 2 ^ 11 * n))) =
    (List.finRange 16).map (fun an => .ok (.ldbzLso 0 an .r0 .alw)) ∧
  (List.range 16).map (fun n => decode (BitVec.ofNat 32 (0x04000000 + 2 ^ 28 * n))) =
    [Cond.inc, .icr, .ino, .iof, .inz, .izr, .ips, .ing, .ils, .ihi, .ilo, .ige, .ile, .igt, .undef, .alw].map
      (fun c => .ok (.moveDual .r0 .r0 c)) ∧
  [31, 30, 29, 28, 25, 24, 23, 22, 21, 20, 19, 18, 17, 16, 10, 9, 8, 7, 6].map
      (fun b => decode (BitVec.ofNat 32 (0x0800C025 + 2 ^ b))) =
    (List.range 19).map (fun k => .ok (.ldlgRgsi 8 (BitVec.ofNat 19 (2 ^ k)))) ∧
  [6, 7, 8, 9, 10, 16, 17, 18, 19, 20, 21, 22, 23, 24, 25, 28, 29, 30, 31].map
      (fun b => decode (BitVec.ofNat 32 (0x0C00C025 + 2 ^ b))) =
    (List.range 19).map (fun k => .ok (.ldlgRgsd 8 (BitVec.ofNat 19 (2 ^ k))))

/-- A fetched word of no row is refused by name: that the model stops there is the spec's decision D7
(30_encoding.md R103; log 28). -/
def Obligations.UnassignedRefused : Prop :=
  ∀ s : State, Undisturbed s → s.nextInputs.breakpoint = false → s.fetchStop (wordAligned s.pc) = none →
    (∀ r ∈ opcodeTable, r.accepts (s.codeWord (wordAligned s.pc)) = false) →
      step s = .refused (.unassigned (s.codeWord (wordAligned s.pc)))

/-! ### The step and the invariant -/

/-- Every step keeps the invariant of the machine, from every state that meets it: canonical memories, aligned
instruction addresses (10_state.md R47), the STRQ bookkeeping (60_exceptions.md R346). -/
def Obligations.StepKeepsInv : Prop := ∀ s t : State, Inv s → step s = .next t → Inv t

/-- The invariant holds right after reset. -/
def Obligations.InvAtReset : Prop := Inv State.reset

/-- An undisturbed step of a running core executes the instruction that the word at pc decodes to, in the state
`atFetch`: one input entry used up, the fetch signalled; the instruction itself moves pc
(40_operands_and_conditions.md R130). Where the debug module's comparators substitute the stop opcode for the word, the
step executes stop in that state, whatever the word is (60_exceptions.md R347; log 23). -/
def Obligations.StepRunsDecoded : Prop :=
  ∀ s : State, Undisturbed s → s.fetchStop (wordAligned s.pc) = none →
    (∀ i, s.nextInputs.breakpoint = false → decode (s.codeWord (wordAligned s.pc)) = .ok i →
      step s = exec i s.atFetch) ∧
    (s.nextInputs.breakpoint = true → step s = exec .stop s.atFetch)

/-- Reset, seen at any boundary and in any state, and the state a run starts from: pc is IRN times 0x10000000, CC is 0,
the core is in system mode with IE and IS clear; a reset does not write IA (70_reset_and_hazards.md R370,
10_state.md R50). -/
def Obligations.ResetEvent : Prop :=
  let defined (t : State) (irn : BitVec 4) : Prop :=
    t.pc = BitVec.ofNat 32 (irn.toNat * 0x10000000) ∧ t.readReg .cc = 0 ∧ t.cs.ir = true ∧ t.cs.ie = false ∧
      t.cs.is = false
  defined State.reset Config.resetIrn ∧
    ∀ s : State, s.nextInputs.reset = true →
      ∃ t, step s = .next t ∧ defined t s.nextInputs.irn ∧ t.readReg .ia = s.readReg .ia

/-! ### Arithmetic (43_arithmetic.md) -/

/-- addt, all three forms: the sum modulo 2^32 goes to Rd; C is the carry out of bit 31, O the signed overflow, Z and N
describe the sum; nothing else changes. A false condition performs no operation. R211. -/
def Obligations.AddtSum : Prop :=
  ∀ (s : State) (a b d : Gpr) (k : BitVec 12) (c : BitVec 16) (cnd : Cond),
    UnderCondition cnd s (.addtTri (.gpr a) (.gpr b) (.gpr d) cnd)
      (exec (.addtTri (.gpr a) (.gpr b) (.gpr d) cnd) s =
        .next (s.computed d (sumOf s.gprs[b] s.gprs[a] false) (sumFlags s.gprs[b] s.gprs[a] false true))) ∧
    UnderCondition cnd s (.addtK12 k (.gpr b) (.gpr d) cnd)
      (exec (.addtK12 k (.gpr b) (.gpr d) cnd) s =
        .next (s.computed d (sumOf s.gprs[b] (k.setWidth 32) false)
          (sumFlags s.gprs[b] (k.setWidth 32) false true))) ∧
    exec (.addtK16 c (.gpr b) (.gpr d)) s =
      .next (s.computed d (sumOf s.gprs[b] (c.setWidth 32) false) (sumFlags s.gprs[b] (c.setWidth 32) false true))

/-- addc, both forms: the sum with the carry flag; C and O are exact with the carry in, and Z stays set only if it was
set. R212. -/
def Obligations.AddcSum : Prop :=
  ∀ (s : State) (a b d : Gpr) (k : BitVec 12) (cnd : Cond),
    UnderCondition cnd s (.addcTri (.gpr a) (.gpr b) (.gpr d) cnd)
      (exec (.addcTri (.gpr a) (.gpr b) (.gpr d) cnd) s =
        .next (s.computed d (sumOf s.gprs[b] s.gprs[a] s.cc.c) (sumFlags s.gprs[b] s.gprs[a] s.cc.c s.cc.z))) ∧
    UnderCondition cnd s (.addcK12 k (.gpr b) (.gpr d) cnd)
      (exec (.addcK12 k (.gpr b) (.gpr d) cnd) s =
        .next (s.computed d (sumOf s.gprs[b] (k.setWidth 32) s.cc.c)
          (sumFlags s.gprs[b] (k.setWidth 32) s.cc.c s.cc.z)))

/-- subf, all three forms: `src1 - src0` goes to Rd; C is the borrow, O the signed overflow. R214. -/
def Obligations.SubfDifference : Prop :=
  ∀ (s : State) (a b d : Gpr) (k : BitVec 12) (c : BitVec 16) (cnd : Cond),
    UnderCondition cnd s (.subfTri (.gpr a) (.gpr b) (.gpr d) cnd)
      (exec (.subfTri (.gpr a) (.gpr b) (.gpr d) cnd) s =
        .next (s.computed d (differenceOf s.gprs[b] s.gprs[a] false)
          (differenceFlags s.gprs[b] s.gprs[a] false true))) ∧
    UnderCondition cnd s (.subfK12 k (.gpr b) (.gpr d) cnd)
      (exec (.subfK12 k (.gpr b) (.gpr d) cnd) s =
        .next (s.computed d (differenceOf s.gprs[b] (k.setWidth 32) false)
          (differenceFlags s.gprs[b] (k.setWidth 32) false true))) ∧
    exec (.subfK16 c (.gpr b) (.gpr d)) s =
      .next (s.computed d (differenceOf s.gprs[b] (c.setWidth 32) false)
        (differenceFlags s.gprs[b] (c.setWidth 32) false true))

/-- subc, both forms: `src1 - src0 - C`; C is the borrow in and the borrow out, and Z stays set only if it was set.
R215. -/
def Obligations.SubcDifference : Prop :=
  ∀ (s : State) (a b d : Gpr) (k : BitVec 12) (cnd : Cond),
    UnderCondition cnd s (.subcTri (.gpr a) (.gpr b) (.gpr d) cnd)
      (exec (.subcTri (.gpr a) (.gpr b) (.gpr d) cnd) s =
        .next (s.computed d (differenceOf s.gprs[b] s.gprs[a] s.cc.c)
          (differenceFlags s.gprs[b] s.gprs[a] s.cc.c s.cc.z))) ∧
    UnderCondition cnd s (.subcK12 k (.gpr b) (.gpr d) cnd)
      (exec (.subcK12 k (.gpr b) (.gpr d) cnd) s =
        .next (s.computed d (differenceOf s.gprs[b] (k.setWidth 32) s.cc.c)
          (differenceFlags s.gprs[b] (k.setWidth 32) s.cc.c s.cc.z)))

/-- comp and cmpc, both forms: the flags of `src1 - src0`, for cmpc with borrow in and sticky Z; no register is written
and nothing else but pc changes. R216, R217. -/
def Obligations.CompareFlags : Prop :=
  ∀ (s : State) (a b : Gpr) (k : BitVec 17),
    exec (.compCmpr (.gpr a) (.gpr b)) s =
      .next { s with cc := differenceFlags s.gprs[b] s.gprs[a] false true, pc := s.follow } ∧
    exec (.compK17c k (.gpr b)) s =
      .next { s with cc := differenceFlags s.gprs[b] (k.signExtend 32) false true, pc := s.follow } ∧
    exec (.cmpcCmpr (.gpr a) (.gpr b)) s =
      .next { s with cc := differenceFlags s.gprs[b] s.gprs[a] s.cc.c s.cc.z, pc := s.follow } ∧
    exec (.cmpcK17c k (.gpr b)) s =
      .next { s with cc := differenceFlags s.gprs[b] (k.signExtend 32) s.cc.c s.cc.z, pc := s.follow }

/-- addh, negt and absl: the sum with the high constant, the negated and the absolute value as signed numbers modulo 2^32
(so 0x80000000 stays itself); no flag changes. R213, R218, R219. -/
def Obligations.UnflaggedArithmetic : Prop :=
  ∀ (s : State) (a b d : Gpr) (hi : BitVec 16) (cnd : Cond),
    exec (.addh hi (.gpr b) (.gpr d)) s =
      .next (s.computed d (BitVec.ofNat 32 (s.gprs[b].toNat + 65536 * hi.toNat)) s.cc) ∧
    UnderCondition cnd s (.negt (.gpr a) (.gpr d) cnd)
      (exec (.negt (.gpr a) (.gpr d) cnd) s = .next (s.computed d (BitVec.ofInt 32 (-s.gprs[a].toInt)) s.cc)) ∧
    UnderCondition cnd s (.absl (.gpr a) (.gpr d) cnd)
      (exec (.absl (.gpr a) (.gpr d) cnd) s =
        .next (s.computed d (BitVec.ofNat 32 s.gprs[a].toInt.natAbs) s.cc))

/-- clzr: the count n has n zero bits at the top of the source and, below 32, a 1 bit right after them. R220. -/
def Obligations.LeadingZeros : Prop :=
  ∀ (s : State) (a d : Gpr) (cnd : Cond),
    UnderCondition cnd s (.clzr (.gpr a) (.gpr d) cnd)
      (∃ n, n ≤ 32 ∧ exec (.clzr (.gpr a) (.gpr d) cnd) s = .next (s.computed d (BitVec.ofNat 32 n) s.cc) ∧
        (∀ j, j < n → s.gprs[a].getMsbD j = false) ∧ (n < 32 → s.gprs[a].getMsbD n = true) ∧
        (s.gprs[a] = 0 → n = 32))

/-- After `comp Rs0,Rs1` the conditions compare Rs1 with Rs0: equal, unsigned lower, lower or same, higher, and signed
lower, greater or equal, lower or equal, greater (43_arithmetic.md R216 and the table of R131, read together). -/
def Obligations.ConditionsAfterCompare : Prop :=
  ∀ (s : State) (a b : Gpr), ∃ t, exec (.compCmpr (.gpr a) (.gpr b)) s = .next t ∧
    (condHolds .izr t.cc = true ↔ s.gprs[b] = s.gprs[a]) ∧
    (condHolds .inz t.cc = true ↔ s.gprs[b] ≠ s.gprs[a]) ∧
    (condHolds .icr t.cc = true ↔ s.gprs[b].toNat < s.gprs[a].toNat) ∧
    (condHolds .inc t.cc = true ↔ s.gprs[a].toNat ≤ s.gprs[b].toNat) ∧
    (condHolds .ils t.cc = true ↔ s.gprs[b].toNat ≤ s.gprs[a].toNat) ∧
    (condHolds .ihi t.cc = true ↔ s.gprs[a].toNat < s.gprs[b].toNat) ∧
    (condHolds .ilo t.cc = true ↔ s.gprs[b].toInt < s.gprs[a].toInt) ∧
    (condHolds .ige t.cc = true ↔ s.gprs[a].toInt ≤ s.gprs[b].toInt) ∧
    (condHolds .ile t.cc = true ↔ s.gprs[b].toInt ≤ s.gprs[a].toInt) ∧
    (condHolds .igt t.cc = true ↔ s.gprs[a].toInt < s.gprs[b].toInt)

/-- addt on the low words, then addc on the high words, adds two 64-bit numbers: the two results together are the sum
modulo 2^64, C is its carry, and Z is set exactly when the whole sum is 0 (43_arithmetic.md R211, R212). -/
def Obligations.DoubleWordAdd : Prop :=
  ∀ (s : State) (al ah bl bh dl dh : Gpr), dl ≠ ah → dl ≠ bh → dl ≠ dh →
    ∃ t u, exec (.addtTri (.gpr al) (.gpr bl) (.gpr dl) .alw) s = .next t ∧
      exec (.addcTri (.gpr ah) (.gpr bh) (.gpr dh) .alw) t = .next u ∧
      u.gprs[dh] ++ u.gprs[dl] = (s.gprs[bh] ++ s.gprs[bl]) + (s.gprs[ah] ++ s.gprs[al]) ∧
      u.cc.c = decide (2 ^ 64 ≤ (s.gprs[bh] ++ s.gprs[bl]).toNat + (s.gprs[ah] ++ s.gprs[al]).toNat) ∧
      u.cc.z = decide (u.gprs[dh] ++ u.gprs[dl] = 0#64)

/-! ### Logic (44_logic.md) -/

/-- andb, both forms: bit i of the result is the and of the two bits i; C is set for an odd number of 1 bits in the
result, O is that parity exclusive or the old C, Z and N describe the result. R230. -/
def Obligations.AndParity : Prop :=
  ∀ (s : State) (a b d : Gpr) (c : BitVec 16) (cnd : Cond),
    let flags (r : Word) : Flags :=
      { n := r.getLsbD 31
        z := decide (r = 0)
        o := decide (onesIn r % 2 = 1) ^^ s.cc.c
        c := decide (onesIn r % 2 = 1) }
    UnderCondition cnd s (.andbTri (.gpr a) (.gpr b) (.gpr d) cnd)
      (exec (.andbTri (.gpr a) (.gpr b) (.gpr d) cnd) s =
        .next (s.computed d (s.gprs[b] &&& s.gprs[a]) (flags (s.gprs[b] &&& s.gprs[a])))) ∧
    exec (.andbK16 c (.gpr b) (.gpr d)) s =
      .next (s.computed d (s.gprs[b] &&& c.setWidth 32) (flags (s.gprs[b] &&& c.setWidth 32)))

/-- iorb, xorb (both forms) and invt, bit by bit; no flag changes. R231, R232, R233. -/
def Obligations.OrXorInvert : Prop :=
  ∀ (s : State) (a b d : Gpr) (c : BitVec 16) (cnd : Cond),
    UnderCondition cnd s (.iorbTri (.gpr a) (.gpr b) (.gpr d) cnd)
      (exec (.iorbTri (.gpr a) (.gpr b) (.gpr d) cnd) s = .next (s.computed d (s.gprs[a] ||| s.gprs[b]) s.cc)) ∧
    exec (.iorbK16 c (.gpr b) (.gpr d)) s = .next (s.computed d (c.setWidth 32 ||| s.gprs[b]) s.cc) ∧
    UnderCondition cnd s (.xorbTri (.gpr a) (.gpr b) (.gpr d) cnd)
      (exec (.xorbTri (.gpr a) (.gpr b) (.gpr d) cnd) s = .next (s.computed d (s.gprs[a] ^^^ s.gprs[b]) s.cc)) ∧
    exec (.xorbK16 c (.gpr b) (.gpr d)) s = .next (s.computed d (c.setWidth 32 ^^^ s.gprs[b]) s.cc) ∧
    UnderCondition cnd s (.invt (.gpr a) (.gpr d) cnd)
      (exec (.invt (.gpr a) (.gpr d) cnd) s = .next (s.computed d (~~~s.gprs[a]) s.cc))

/-! ### Shifts and bits (45_shift_bit.md) -/

/-- shlz, shlf, shru and shrs by a constant or by bits [4:0] of Rs0: the product with 2^k modulo 2^32, the rotation by k,
the quotient by 2^k, and the signed quotient by 2^k rounded down; no flag changes. R241 to R244. -/
def Obligations.ShiftsAndRotate : Prop :=
  ∀ (s : State) (a b d : Gpr) (k : BitVec 5) (cnd : Cond),
    let v := s.gprs[b]
    let n := s.gprs[a].toNat % 32
    UnderCondition cnd s (.shlzK5 k (.gpr b) (.gpr d) cnd) (exec (.shlzK5 k (.gpr b) (.gpr d) cnd) s =
      .next (s.computed d (BitVec.ofNat 32 (v.toNat * 2 ^ k.toNat)) s.cc)) ∧
    UnderCondition cnd s (.shlzTri (.gpr a) (.gpr b) (.gpr d) cnd)
      (exec (.shlzTri (.gpr a) (.gpr b) (.gpr d) cnd) s =
        .next (s.computed d (BitVec.ofNat 32 (v.toNat * 2 ^ n)) s.cc)) ∧
    UnderCondition cnd s (.shlfK5 k (.gpr b) (.gpr d) cnd) (exec (.shlfK5 k (.gpr b) (.gpr d) cnd) s =
      .next (s.computed d (v.rotateLeft k.toNat) s.cc)) ∧
    UnderCondition cnd s (.shlfTri (.gpr a) (.gpr b) (.gpr d) cnd)
      (exec (.shlfTri (.gpr a) (.gpr b) (.gpr d) cnd) s = .next (s.computed d (v.rotateLeft n) s.cc)) ∧
    UnderCondition cnd s (.shruK5 k (.gpr b) (.gpr d) cnd) (exec (.shruK5 k (.gpr b) (.gpr d) cnd) s =
      .next (s.computed d (BitVec.ofNat 32 (v.toNat / 2 ^ k.toNat)) s.cc)) ∧
    UnderCondition cnd s (.shruTri (.gpr a) (.gpr b) (.gpr d) cnd)
      (exec (.shruTri (.gpr a) (.gpr b) (.gpr d) cnd) s =
        .next (s.computed d (BitVec.ofNat 32 (v.toNat / 2 ^ n)) s.cc)) ∧
    UnderCondition cnd s (.shrsK5 k (.gpr b) (.gpr d) cnd) (exec (.shrsK5 k (.gpr b) (.gpr d) cnd) s =
      .next (s.computed d (BitVec.ofInt 32 (v.toInt / 2 ^ k.toNat)) s.cc)) ∧
    UnderCondition cnd s (.shrsTri (.gpr a) (.gpr b) (.gpr d) cnd)
      (exec (.shrsTri (.gpr a) (.gpr b) (.gpr d) cnd) s =
        .next (s.computed d (BitVec.ofInt 32 (v.toInt / 2 ^ n)) s.cc))

/-- btst, btcl and bttg by a constant or by bits [4:0] of Rs0: the indexed bit is set, cleared or toggled and every other
bit is the source's; no flag changes. R245, R246, R247. -/
def Obligations.BitChanges : Prop :=
  ∀ (s : State) (a b d : Gpr) (k : BitVec 5) (cnd : Cond),
    let changed (i : Instr) (n : Nat) (bit : Bool) : Prop :=
      ∃ v : Word, exec i s = .next (s.computed d v s.cc) ∧
        ∀ j, j < 32 → v.getLsbD j = if j = n then bit else s.gprs[b].getLsbD j
    let n := s.gprs[a].toNat % 32
    UnderCondition cnd s (.btstK5 k (.gpr b) (.gpr d) cnd) (changed (.btstK5 k (.gpr b) (.gpr d) cnd) k.toNat true) ∧
    UnderCondition cnd s (.btstTri (.gpr a) (.gpr b) (.gpr d) cnd)
      (changed (.btstTri (.gpr a) (.gpr b) (.gpr d) cnd) n true) ∧
    UnderCondition cnd s (.btclK5 k (.gpr b) (.gpr d) cnd) (changed (.btclK5 k (.gpr b) (.gpr d) cnd) k.toNat false) ∧
    UnderCondition cnd s (.btclTri (.gpr a) (.gpr b) (.gpr d) cnd)
      (changed (.btclTri (.gpr a) (.gpr b) (.gpr d) cnd) n false) ∧
    UnderCondition cnd s (.bttgK5 k (.gpr b) (.gpr d) cnd)
      (changed (.bttgK5 k (.gpr b) (.gpr d) cnd) k.toNat (!s.gprs[b].getLsbD k.toNat)) ∧
    UnderCondition cnd s (.bttgTri (.gpr a) (.gpr b) (.gpr d) cnd)
      (changed (.bttgTri (.gpr a) (.gpr b) (.gpr d) cnd) n (!s.gprs[b].getLsbD n))

/-- btts by a constant or by bits [4:0] of Rs0: C and O are cleared, Z is set when the tested bit is 0, N when bit 31 is
tested and is 1; no register is written. R248. -/
def Obligations.BitTest : Prop :=
  ∀ (s : State) (a b : Gpr) (k : BitVec 5) (cnd : Cond),
    let flags (n : Nat) : Flags :=
      { n := decide (n = 31) && s.gprs[b].getLsbD 31, z := !s.gprs[b].getLsbD n, o := false, c := false }
    UnderCondition cnd s (.bttsK5t k (.gpr b) cnd)
      (exec (.bttsK5t k (.gpr b) cnd) s = .next { s with cc := flags k.toNat, pc := s.follow }) ∧
    UnderCondition cnd s (.bttsTrit (.gpr a) (.gpr b) cnd)
      (exec (.bttsTrit (.gpr a) (.gpr b) cnd) s =
        .next { s with cc := flags (s.gprs[a].toNat % 32), pc := s.follow })

/-! ### Multiply and byte order (46_multiply_endian.md) -/

/-- mult and mlcu, mlcs: the low 32 bits of the exact product; mlhu and mlhs: bits [63:32] of the 64-bit unsigned and
signed product; no flag changes. R260 to R264. -/
def Obligations.Products : Prop :=
  ∀ (s : State) (a b d : Gpr) (c : BitVec 16) (cnd : Cond),
    UnderCondition cnd s (.mult (.gpr a) (.gpr b) (.gpr d) cnd)
      (exec (.mult (.gpr a) (.gpr b) (.gpr d) cnd) s =
        .next (s.computed d (BitVec.ofNat 32 (s.gprs[b].toNat * s.gprs[a].toNat)) s.cc)) ∧
    UnderCondition cnd s (.mlhu (.gpr a) (.gpr b) (.gpr d) cnd)
      (exec (.mlhu (.gpr a) (.gpr b) (.gpr d) cnd) s =
        .next (s.computed d ((s.gprs[b].setWidth 64 * s.gprs[a].setWidth 64).extractLsb' 32 32) s.cc)) ∧
    UnderCondition cnd s (.mlhs (.gpr a) (.gpr b) (.gpr d) cnd)
      (exec (.mlhs (.gpr a) (.gpr b) (.gpr d) cnd) s =
        .next (s.computed d ((s.gprs[b].signExtend 64 * s.gprs[a].signExtend 64).extractLsb' 32 32) s.cc)) ∧
    exec (.mlcu c (.gpr b) (.gpr d)) s =
      .next (s.computed d (BitVec.ofNat 32 (c.toNat * s.gprs[b].toNat)) s.cc) ∧
    exec (.mlcs c (.gpr b) (.gpr d)) s =
      .next (s.computed d (BitVec.ofInt 32 (c.toInt * s.gprs[b].toInt)) s.cc)

/-- ibos swaps bytes 0 and 1, ibol reverses the four bytes; no flag changes. R265, R266. -/
def Obligations.ByteOrder : Prop :=
  ∀ (s : State) (a d : Gpr) (cnd : Cond),
    let byte (i : Nat) : Byte := s.gprs[a].extractLsb' (8 * i) 8
    UnderCondition cnd s (.ibos (.gpr a) (.gpr d) cnd)
      (exec (.ibos (.gpr a) (.gpr d) cnd) s =
        .next (s.computed d (byte 3 ++ byte 2 ++ byte 0 ++ byte 1) s.cc)) ∧
    UnderCondition cnd s (.ibol (.gpr a) (.gpr d) cnd)
      (exec (.ibol (.gpr a) (.gpr d) cnd) s =
        .next (s.computed d (byte 0 ++ byte 1 ++ byte 2 ++ byte 3) s.cc))

/-! ### Refused operands -/

/-- Refused operands, each before any effect and whatever the condition: a computation instruction with a special register
in any operand position, by the register's name (10_state.md R46); a single-register load or store with CC, CS, EP, IA or
ID as the register transferred, or else with one of the numbers 25 to 31 as index or update register, by its name
(41_load_store.md R171); the condition code 14, wherever it stands (30_encoding.md R104); EP in the move family where the
parameter gives it no behaviour, the default (10_state.md R37). They are the spec's decisions D7, D8, D9 and D19 (logs 5
and 28); that a false condition does not come first is read from 40_operands_and_conditions.md R130 (log 37). -/
def Obligations.RefusedOperands : Prop :=
  (∀ (i : Instr) (s : State) (regs : List Reg), computeOperands i = some regs → (∃ r ∈ regs, r.isGpr = false) →
    ∃ r ∈ regs, r.isGpr = false ∧ exec i s = .refused (.forbiddenRegister r)) ∧
  (∀ (k : LoadKind) (sz : Size) (m : AddrMode) (r : Reg) (cnd : Cond) (s : State), r ∈ [Reg.cc, .cs, .ep, .ia, .id] →
    exec (k.form m r cnd) s = .refused (.forbiddenRegister r) ∧
    exec (sz.form r m cnd) s = .refused (.forbiddenRegister r)) ∧
  (∀ (k : LoadKind) (sz : Size) (m : AddrMode) (an : AReg) (x r : Reg) (cnd : Cond) (s : State),
    (m = .index x an ∨ m = .regUpdate an x) → x ∈ [Reg.cc, .cs, .ep, .ta, .sa, .ia, .id] →
    r ∉ [Reg.cc, .cs, .ep, .ia, .id] →
    exec (k.form m r cnd) s = .refused (.forbiddenRegister x) ∧
    exec (sz.form r m cnd) s = .refused (.forbiddenRegister x)) ∧
  (∀ (i : Instr) (s : State), condOf i = some .undef → ∃ r, exec i s = .refused r) ∧
  (∀ (s : State) (r : Reg) (k : BitVec 17) (cnd : Cond), s.params.ep = .refused →
    exec (.moveDual .ep r cnd) s = .refused .extensionRegister ∧
    exec (.moveDual r .ep cnd) s = .refused .extensionRegister ∧
    exec (.moveK17m k .ep cnd) s = .refused .extensionRegister ∧
    exec (.mfdp .ep) s = .refused .extensionRegister ∧
    exec (.mtdp .ep) s = .refused .extensionRegister)

/-- Every well-formed instruction whose condition is false performs no operation, a protected destination in application
mode included (40_operands_and_conditions.md R132; that no security exception is raised is the spec's decision D5,
log 16). -/
def Obligations.FalseConditionIdles : Prop :=
  ∀ (i : Instr) (s : State) (c : Cond), i.wellFormed = true → condOf i = some c → condHolds c s.cc = false →
    exec i s = .next s.idled

/-! ### Moves and the debug port (42_move_debugport.md) -/

/-- move, both forms, to every register where no security exception is due: Rd then reads as the source through its
write view, and nothing else but pc changes. EP counts only where the parameter gives it a behaviour (R200; the model's
parameter, log 5). -/
def Obligations.MoveWrites : Prop :=
  ∀ (s : State) (rs rd : Reg) (k : BitVec 17) (cnd : Cond), (s.cs.ir = true ∨ (rd ≠ .cs ∧ rd ≠ .ia)) →
    let moved (i : Instr) (v : Word) : Prop :=
      ∃ t, exec i s = .next t ∧ t.readReg rd = writeView rd (s.readReg rd) v ∧ KeepsRegs s t [rd] ∧ KeepsMemory s t ∧
        KeepsRest s t ∧ t.bus = s.bus ∧ t.pc = s.follow
    (EpUsable s [rs, rd] →
      UnderCondition cnd s (.moveDual rs rd cnd) (moved (.moveDual rs rd cnd) (s.readReg rs))) ∧
    (EpUsable s [rd] →
      UnderCondition cnd s (.moveK17m k rd cnd) (moved (.moveK17m k rd cnd) (k.signExtend 32)))

/-- mfdp writes the word on DBI to Rd where no security exception is due. Where nothing drives DBI the word is a free
value, of which nothing is said (R201; log 19). -/
def Obligations.DebugPortRead : Prop :=
  ∀ (s : State) (rd : Reg), (s.cs.ir = true ∨ (rd ≠ .cs ∧ rd ≠ .ia)) → EpUsable s [rd] →
    ∃ t v, exec (.mfdp rd) s = .next t ∧ (∀ d, s.dbi = some d → v = d) ∧
      t.readReg rd = writeView rd (s.readReg rd) v ∧ KeepsRegs s t [rd] ∧ KeepsMemory s t ∧
      KeepsRest { s with draws := t.draws } t ∧ (s.dbi ≠ none → t.draws = s.draws) ∧ t.bus = s.bus ∧ t.pc = s.follow

/-- mtdp puts the read view of any register on DBO, in both modes, and changes nothing else but pc (R202; that DBO keeps
the value is the spec's reading, log 8). -/
def Obligations.DebugPortWrite : Prop :=
  ∀ (s : State) (rs : Reg), EpUsable s [rs] →
    exec (.mtdp rs) s = .next { s with dbo := s.readReg rs, pc := s.follow }

/-- The read view of the registers with reserved bits: CC, CS and ID as sums of their fields, TA, SA and IA as multiples
of 4, and IMA one of its five codes (10_state.md R42, R43; the bit positions are the spec's decision D25, log 11). -/
def Obligations.ReadView : Prop :=
  ∀ s : State,
    (s.readReg .cc).toNat = 8 * s.cc.n.toNat + 4 * s.cc.z.toNat + 2 * s.cc.o.toNat + s.cc.c.toNat ∧
    (s.readReg .cs).toNat = 64 * s.cs.ivtp.toNat + 4 * s.cs.is.toNat + 2 * s.cs.ie.toNat + s.cs.ir.toNat ∧
    (s.readReg .ta).toNat = 4 * s.ta.toNat ∧ (s.readReg .sa).toNat = 4 * s.sa.toNat ∧
    (s.readReg .ia).toNat = 4 * s.ia.toNat ∧
    (s.readReg .id).toNat = 4096 * s.params.idRev.toNat + 256 * s.params.idIma.code.toNat + 0x14 ∧
    s.params.idIma.code.toNat ≤ 4

/-! ### Data memory (20_memory.md) -/

/-- Byte order: an aligned short is the byte at the address plus 256 times the next, an aligned long adds the third and
fourth byte likewise. R63. -/
def Obligations.LittleEndian : Prop :=
  ∀ (s : State) (a : Word),
    (s.memRead a .byte).toNat = (s.readByte a).toNat ∧
    (a &&& 1#32 = 0#32 → (s.memRead a .short).toNat = (s.readByte a).toNat + 256 * (s.readByte (a + 1#32)).toNat) ∧
    (a &&& 3#32 = 0#32 → (s.memRead a .long).toNat =
      (s.readByte a).toNat + 256 * (s.readByte (a + 1#32)).toNat + 65536 * (s.readByte (a + 2#32)).toNat +
        16777216 * (s.readByte (a + 3#32)).toNat)

/-- A write to RAM is read back: at the same address and size the low bytes written; a read at addresses apart from a
write gives what was there before, whatever stands behind either (20_memory.md R69). A write that reaches no RAM changes
no memory: that ROM keeps its bytes and that a device holds none is the model's choice (20_memory.md R72, R73; log
25). -/
def Obligations.WriteThenRead : Prop :=
  ∀ (s : State) (eda : Word) (sz : Size) (v : Word), Canonical s →
    (s.AllRam eda sz → (s.memWrite eda sz v).memRead eda sz = v &&& BitVec.ofNat 32 (2 ^ (8 * sz.bytes) - 1)) ∧
    (∀ (e : Word) (z : Size), (∀ a ∈ z.addresses e, a ∉ sz.addresses eda) →
      (s.memWrite eda sz v).memRead e z = s.memRead e z) ∧
    ((∀ a ∈ sz.addresses eda, s.regionAt a ≠ .ram) → s.memWrite eda sz v = s)

/-- A misaligned address reaches the aligned operand. With `MISALIGNED = ignore` it stops nothing that the aligned one
would not; with `MISALIGNED = controller` it is refused. With `MISALIGNED = ignore`, no code window and no absent region
no data access stops, whatever the address and whether RAM, ROM or a device stands there; where instruction memory is RAM
and ROM only, no fetch stops, whatever `MISALIGNED` says (20_memory.md R67, R68, R69, R72, R73, the spec's decisions D7 and
D10; logs 25 and 26). -/
def Obligations.AccessStops : Prop :=
  ∀ (s : State) (eda : Word) (sz : Size) (v : Word) (write : Bool),
    (s.memRead eda sz = s.memRead (sz.align eda) sz ∧ s.memWrite eda sz v = s.memWrite (sz.align eda) sz v) ∧
    (s.params.misaligned = .ignore → s.accessStop write eda sz = s.accessStop write (sz.align eda) sz) ∧
    (s.params.misaligned = .controller → sz.align eda ≠ eda →
      s.accessStop write eda sz = some (.refusal (.misalignedAccess eda))) ∧
    (s.params.misaligned = .ignore → s.params.codeWindow = none → (∀ r ∈ s.params.dataMap, r.kind ≠ .absent) →
      s.accessStop write eda sz = none) ∧
    ((∀ r ∈ s.params.codeMap, r.kind = .ram ∨ r.kind = .rom) → s.fetchStop eda = none)

/-! ### Loads and stores (41_load_store.md) -/

/-- The addressing modes: the effective address of each and its update of An, the register an An field value names (8 to
15 are R8 to RF, 0 to 7 are RP to RZ), the addresses and final An of the two RGS modes, and their transfer order: the fixed
order of the mode restricted to the selected registers, each selected by the bit of its place in the `(An)+` order
(40_operands_and_conditions.md R145 to R151, 10_state.md R21, 30_encoding.md R97; the opcode bits of the flags are in
KnownWords). -/
def Obligations.AddressingModes : Prop :=
  (∀ (s : State) (sz : Size) (da : BitVec 16) (k : BitVec 12) (an : AReg) (r : Reg) (a : Word) (i : Nat),
    let x := s.readReg
    let size := BitVec.ofNat 32 sz.bytes
    ((AddrMode.direct da).eda sz s = da.signExtend 32 ∧ (AddrMode.direct da).updated s = none) ∧
    ((AddrMode.offset k an).eda sz s = x an.reg + k.signExtend 32 ∧ (AddrMode.offset k an).updated s = none) ∧
    ((AddrMode.index r an).eda sz s = x an.reg + size * x r ∧ (AddrMode.index r an).updated s = none) ∧
    ((AddrMode.update an k).eda sz s = x an.reg ∧
      (AddrMode.update an k).updated s = some (an.reg, x an.reg + k.signExtend 32)) ∧
    ((AddrMode.regUpdate an r).eda sz s = x an.reg ∧
      (AddrMode.regUpdate an r).updated s = some (an.reg, x an.reg + x r)) ∧
    (RgsMode.up.eda sz a i = a + size * BitVec.ofNat 32 i ∧ RgsMode.up.final sz a i = a + size * BitVec.ofNat 32 i) ∧
    (RgsMode.down.eda sz a i = a - size * BitVec.ofNat 32 i - size ∧
      RgsMode.down.final sz a i = a - size * BitVec.ofNat 32 i)) ∧
  (List.finRange 16).map AReg.reg =
    [.rp, .rq, .ru, .rv, .rw, .rx, .ry, .rz, .r8, .r9, .ra, .rb, .rc, .rd, .re, .rf] ∧
  ∀ sel : RegSel,
    let upward : List Reg :=
      [.sa, .ta, .lc, .r0, .r1, .r2, .r3, .r4, .r5, .r6, .r7, .r8, .r9, .ra, .rb, .rp, .rq, .ru, .rv]
    let downward : List Reg :=
      [.rv, .ru, .rq, .rp, .rb, .ra, .r9, .r8, .r7, .r6, .r5, .r4, .r3, .r2, .r1, .r0, .lc, .ta, .sa]
    RgsMode.up.order sel = (upward.zipIdx.filter fun p => sel.getLsbD p.2).map Prod.fst ∧
    RgsMode.down.order sel = (downward.zipIdx.filter fun p => sel.getLsbD (18 - p.2)).map Prod.fst

/-- The 25 single-register loads: Rd receives the bytes at the effective address, extended as the mnemonic says, an update
mode then updates An, the access is signalled, and no flag, no other register, no byte of memory and nothing else
changes. Where the access reaches a device the bytes are free values and their counter moves (R175 to R179; 20_memory.md
R72, log 25). -/
def Obligations.SingleLoads : Prop :=
  ∀ (k : LoadKind) (m : AddrMode) (rd : Reg) (cnd : Cond) (s : State), (k.form m rd cnd).wellFormed = true →
    s.accessStop false (m.eda k.size s) k.size = none →
      UnderCondition cnd s (k.form m rd cnd)
        (∃ t, exec (k.form m rd cnd) s = .next t ∧
          t.readReg rd = writeView rd (s.readReg rd) (k.fetched s (m.eda k.size s)) ∧
          (∀ r v, m.updated s = some (r, v) → t.readReg r = v) ∧
          KeepsRegs s t (rd :: m.updates) ∧ KeepsMemory s t ∧ KeepsRest { s with draws := t.draws } t ∧
          (s.NoDevice (m.eda k.size s) k.size → t.draws = s.draws) ∧
          t.bus = s.bus ++ s.reads k.size [m.eda k.size s] ∧ t.pc = s.follow)

/-- The 15 single-register stores: the bytes of RAM at the effective address hold the low bytes of Rs as it was before the
instruction, an update mode then updates An, the access is signalled with these bytes, and no flag, no other register, no
other byte and nothing else changes. ROM keeps its bytes and a device holds none (R180 to R182; 20_memory.md R72, R73, log
25). -/
def Obligations.SingleStores : Prop :=
  ∀ (sz : Size) (m : AddrMode) (rs : Reg) (cnd : Cond) (s : State), Canonical s →
    (sz.form rs m cnd).wellFormed = true →
    s.accessStop true (m.eda sz s) sz = none →
      UnderCondition cnd s (sz.form rs m cnd)
        (∃ t, exec (sz.form rs m cnd) s = .next t ∧ HoldsAt t (m.eda sz s) sz (s.readReg rs) ∧
          KeepsMemoryBut s t sz [m.eda sz s] ∧ (∀ r v, m.updated s = some (r, v) → t.readReg r = v) ∧
          KeepsRegs s t m.updates ∧ KeepsRest s t ∧
          t.bus = s.bus ++ s.writes sz [(m.eda sz s, s.readReg rs)] ∧ t.pc = s.follow)

/-- The 10 RGS loads: the i-th register of the transfer order receives the extended bytes at the i-th address, An its
final value, the accesses are made in order, and nothing else changes; where an access reaches a device the bytes are free
values and their counter moves (R173, R174; that the instruction is one step is the spec's decision D13, log 30; the order
of the accesses is its decision D27, log 29; devices 20_memory.md R72, log 25). -/
def Obligations.SelectionLoads : Prop :=
  ∀ (k : LoadKind) (d : RgsMode) (an : AReg) (sel : RegSel) (s : State), (k.rgsForm d an sel).wellFormed = true →
    let n := (d.order sel).length
    let eda := d.eda k.size (s.readReg an.reg)
    (∀ i, i < n → s.accessStop false (eda i) k.size = none) →
      ∃ t, exec (k.rgsForm d an sel) s = .next t ∧
        (∀ i (h : i < n), ∃ count, t.readReg (d.order sel)[i] =
          writeView (d.order sel)[i] 0 (k.fetched { s with draws := count } (eda i))) ∧
        t.readReg an.reg = d.final k.size (s.readReg an.reg) n ∧
        KeepsRegs s t (an.reg :: d.order sel) ∧ KeepsMemory s t ∧ KeepsRest { s with draws := t.draws } t ∧
        ((∀ i, i < n → s.NoDevice (eda i) k.size) → t.draws = s.draws) ∧
        t.bus = s.bus ++ s.reads k.size ((List.range n).map eda) ∧ t.pc = s.follow

/-- The 6 RGS stores: the bytes of RAM at the i-th address hold the low bytes of the i-th register of the transfer order
as it was before the instruction (An included), An receives its final value, the accesses are made in order with these
bytes, and nothing else changes; ROM keeps its bytes and a device holds none (R173, R174; that the instruction is one step
is the spec's decision D13, log 30; the order of the accesses is its decision D27, log 29; devices and ROM 20_memory.md
R72, R73, log 25). -/
def Obligations.SelectionStores : Prop :=
  ∀ (sz : Size) (d : RgsMode) (sel : RegSel) (an : AReg) (s : State), Canonical s →
    (sz.rgsForm d sel an).wellFormed = true →
    let n := (d.order sel).length
    let eda := d.eda sz (s.readReg an.reg)
    (∀ i, i < n → s.accessStop true (eda i) sz = none) →
      ∃ t, exec (sz.rgsForm d sel an) s = .next t ∧
        (∀ i (h : i < n), HoldsAt t (eda i) sz (s.readReg (d.order sel)[i])) ∧
        KeepsMemoryBut s t sz ((List.range n).map eda) ∧
        t.readReg an.reg = d.final sz (s.readReg an.reg) n ∧
        KeepsRegs s t [an.reg] ∧ KeepsRest s t ∧
        t.bus = s.bus ++ s.writes sz ((d.order sel).zipIdx.map fun p => (eda p.2, s.readReg p.1)) ∧ t.pc = s.follow

/-- `stlg RGS,-(An)` and then `ldlg (An)+,RGS` with the same selection (An not in it), over RAM, leave every register as it
was, An included (40_operands_and_conditions.md R151: "returns every register and An to its old value"). -/
def Obligations.PushThenPop : Prop :=
  ∀ (s : State) (an : AReg) (sel : RegSel), Canonical s → (Instr.ldlgRgsi an sel).wellFormed = true →
    (∀ i, i < (RegSel.registers sel).length →
      s.accessStop true (RgsMode.down.eda .long (s.readReg an.reg) i) .long = none ∧
        s.AllRam (RgsMode.down.eda .long (s.readReg an.reg) i) .long) →
      ∃ t u, exec (.stlgRgsd sel an) s = .next t ∧ exec (.ldlgRgsi an sel) t = .next u ∧
        (∀ r, u.readReg r = s.readReg r) ∧ KeepsMemory t u

/-- The refused overlaps and the empty selection, whatever the condition: an update-mode load into a register its update
uses (An, or an update register that is a general register or LC), an RGS load whose selection holds An, an RGS form that
selects nothing; the spec's decisions D16 and D7 (41_load_store.md R172, 30_encoding.md R104; log 28); that a false
condition does not come first is read from 40_operands_and_conditions.md R130 (log 37). -/
def Obligations.RefusedLoads : Prop :=
  ∀ (k : LoadKind) (sz : Size) (d : RgsMode) (an : AReg) (au : BitVec 12) (ru : Reg) (sel : RegSel) (cnd : Cond)
    (s : State),
    exec (k.form (.update an au) an.reg cnd) s = .refused (.loadOverlap an.reg) ∧
    (ru.isGpr = true ∨ ru = .lc →
      exec (k.form (.regUpdate an ru) an.reg cnd) s = .refused (.loadOverlap an.reg) ∧
      exec (k.form (.regUpdate an ru) ru cnd) s = .refused (.loadOverlap ru)) ∧
    (sel.holds an.reg = true → exec (k.rgsForm d an sel) s = .refused (.loadOverlap an.reg)) ∧
    exec (k.rgsForm d an 0) s = .refused .emptySelection ∧
    exec (sz.rgsForm d 0 an) s = .refused .emptySelection

/-! ### Flow control (47_flow_control.md) -/

/-- jump and jpsr, both forms, and rtsr: pc becomes TA, the zero-extended 29-bit address, or SA; jpsr puts the address of
the next instruction into SA; nothing else changes. R271, R272, R273. -/
def Obligations.JumpsAndReturns : Prop :=
  ∀ (s : State) (ia : BitVec 27), s.stopped = false →
    exec .jumpImp s = .next { s with pc := s.readReg .ta } ∧
    exec (.jumpJa ia) s = .next { s with pc := BitVec.ofNat 32 (4 * ia.toNat) } ∧
    exec .rtsr s = .next { s with pc := s.readReg .sa } ∧
    (∃ t, exec .jpsrImp s = .next t ∧ t.pc = s.readReg .ta ∧ t.readReg .sa = (s.pc + 4#32) &&& 0xFFFFFFFC#32 ∧
      KeepsRegs s t [.sa] ∧ KeepsMemory s t ∧ KeepsRest s t ∧ t.bus = s.bus) ∧
    (∃ t, exec (.jpsrJa ia) s = .next t ∧ t.pc = BitVec.ofNat 32 (4 * ia.toNat) ∧
      t.readReg .sa = (s.pc + 4#32) &&& 0xFFFFFFFC#32 ∧
      KeepsRegs s t [.sa] ∧ KeepsMemory s t ∧ KeepsRest s t ∧ t.bus = s.bus)

/-- brlc: LC counts down modulo 2^32 and the branch is taken unless LC was 1; nothing else changes. R275. -/
def Obligations.LoopBranch : Prop :=
  ∀ (s : State) (off : BitVec 14), s.stopped = false →
    exec (.brlc off) s = .next { s with
      lc := BitVec.ofInt 32 (s.lc.toNat - 1)
      pc := if s.lc = 1#32 then s.pc + 4#32 else s.pc + BitVec.ofInt 32 (4 * off.toInt) }

/-- The eight branches on one flag: taken to cia plus the sign-extended offset exactly when the flag is as named, whatever
the S flag; else the next instruction; nothing but pc changes. R276 to R284. -/
def Obligations.FlagBranches : Prop :=
  ∀ (s : State) (off : BitVec 14) (hint : Bool), s.stopped = false →
    let target (taken : Bool) : Result :=
      .next { s with pc := if taken then s.pc + BitVec.ofInt 32 (4 * off.toInt) else s.pc + 4#32 }
    exec (.brnc off hint) s = target (!s.cc.c) ∧ exec (.brcr off hint) s = target s.cc.c ∧
    exec (.brno off hint) s = target (!s.cc.o) ∧ exec (.brof off hint) s = target s.cc.o ∧
    exec (.brnz off hint) s = target (!s.cc.z) ∧ exec (.brzr off hint) s = target s.cc.z ∧
    exec (.brps off hint) s = target (!s.cc.n) ∧ exec (.brng off hint) s = target s.cc.n

/-- The six branches on two or three flags: brls on C or Z, brlo on N different from O, brle on Z or N different from O,
and brhi, brge, brgt exactly when these are not taken. R285 to R290. -/
def Obligations.ComparisonBranches : Prop :=
  ∀ (s : State) (off : BitVec 14) (hint : Bool), s.stopped = false →
    let target (taken : Bool) : Result :=
      .next { s with pc := if taken then s.pc + BitVec.ofInt 32 (4 * off.toInt) else s.pc + 4#32 }
    exec (.brls off hint) s = target (s.cc.c || s.cc.z) ∧ exec (.brhi off hint) s = target (!(s.cc.c || s.cc.z)) ∧
    exec (.brlo off hint) s = target (s.cc.n != s.cc.o) ∧ exec (.brge off hint) s = target (s.cc.n == s.cc.o) ∧
    exec (.brle off hint) s = target (s.cc.z || s.cc.n != s.cc.o) ∧
    exec (.brgt off hint) s = target (!s.cc.z && s.cc.n == s.cc.o)

/-- rtir in system mode: pc becomes IA, CC the hidden copy where an interrupt entry has written one, the core enters
application mode, and nothing else changes (before any entry the four flags are free). In application mode it is refused,
"not defined" (R274; that IE and IS stay is the spec's decision D2, that it is refused D15; logs 7, 13, 28). -/
def Obligations.ReturnFromInterrupt : Prop :=
  ∀ s : State, s.stopped = false →
    (s.cs.ir = true → ∃ t, exec .rtir s = .next t ∧ t.pc = s.readReg .ia ∧ (s.hccSaved = true → t.cc = s.hcc) ∧
      t.cs = { s.cs with ir := false } ∧ KeepsRegs s t [.cc, .cs] ∧ KeepsMemory s t ∧
      KeepsRest { s with draws := t.draws } t ∧ (s.hccSaved = true → t.draws = s.draws) ∧ t.bus = s.bus) ∧
    (s.cs.ir = false → exec .rtir s = .refused .returnOutsideInterrupt)

/-- stie, clie, scie and rsie, where the parameter lets them run: IE becomes 1, 0, 0 or IS, scie puts the old IE into IS,
and nothing else but pc changes (R291 to R294). In application mode under `IEOPS_IN_AOM = security_exception` they enter
interrupt I0 instead and change neither IE nor IS (R336; both settings are the spec's decision D6, log 17). The entry
rests on the spec's decisions D1, that vector entry 0 lies at the base of the table (60_exceptions.md R324, log 12), D2,
D4 and D23 (logs 13, 15 and 34). Injected (60_exceptions.md R345, D18, log 22), or with IE clear under `SECEXC_NEEDS_IE`
(R329, D3, log 14), they are refused in that mode. -/
def Obligations.InterruptEnable : Prop :=
  ∀ s : State, ((s.cs.ir = true ∨ s.params.ieOps = .execute) →
    exec .stie s = .next { s with cs := { s.cs with ie := true }, pc := s.follow } ∧
    exec .clie s = .next { s with cs := { s.cs with ie := false }, pc := s.follow } ∧
    exec .scie s = .next { s with cs := { s.cs with is := s.cs.ie, ie := false }, pc := s.follow } ∧
    exec .rsie s = .next { s with cs := { s.cs with ie := s.cs.is }, pc := s.follow }) ∧
  ∀ i ∈ [Instr.stie, .clie, .scie, .rsie], s.params.ieOps = .securityException → s.cs.ir = false →
    (s.stopped = false → (s.params.secExcNeedsIe = true → s.cs.ie = true) →
      s.accessStop false (vectorEntry s 0) .long = none →
        ∃ t ret, exec i s = .next t ∧ Entered s t 0 ret ∧ (ret = s.pc ∨ ret = s.pc + 4#32)) ∧
    (s.stopped = true → exec i s = .refused .injectedSecurityException) ∧
    (s.stopped = false → s.params.secExcNeedsIe = true → s.cs.ie = false →
      exec i s = .refused .maskedSecurityException)

/-! ### Debug instructions (48_debug_misc.md) and the stopped state -/

/-- stop enters the stopped state with pc at the next instruction and changes nothing else; injected, it is refused (R312;
that pc is advanced is the spec's decision D17, that the injected one is refused D18; logs 18, 22). -/
def Obligations.StopInstruction : Prop :=
  ∀ s : State,
    (s.stopped = false → exec .stop s = .next { s with stopped := true, pc := s.pc + 4#32 }) ∧
    (s.stopped = true → exec .stop s = .refused .injectedStop)

/-- svpc and rspc in the stopped state: DBO receives pc or the address of the last fetched instruction, as the parameter
says, either where it is open; pc receives the word on DBI with its low bits cleared. In a running program both are
refused (R310, R311; the spec's decisions D17 and D18, logs 18, 19, 22). -/
def Obligations.DebugProgramCounter : Prop :=
  ∀ s : State,
    (s.stopped = true →
      (∃ t, exec .svpc s = .next t ∧ (t.dbo = s.pc ∨ t.dbo = s.lia) ∧
        (s.params.svpcValue = .resume → t.dbo = s.pc) ∧ (s.params.svpcValue = .last → t.dbo = s.lia) ∧
        KeepsRegs s t [] ∧ KeepsMemory s t ∧ KeepsRest { s with dbo := t.dbo, draws := t.draws } t ∧
        t.bus = s.bus ∧ t.pc = s.pc) ∧
      (∃ t, exec .rspc s = .next t ∧ (∀ d, s.dbi = some d → t.pc = d &&& 0xFFFFFFFC#32) ∧ t.pc &&& 3#32 = 0#32 ∧
        KeepsRegs s t [] ∧ KeepsMemory s t ∧ KeepsRest { s with draws := t.draws } t ∧ t.bus = s.bus)) ∧
    (s.stopped = false → exec .svpc s = .refused .debugOnly ∧ exec .rspc s = .refused .debugOnly)

/-- A stop request seen at a boundary of a running core stops it with pc at the next instruction; a stopped core that is
not disturbed changes no register, no byte of memory and not pc, whatever requests an interrupt; it runs again after STRQ
has been seen asserted and then de-asserted (60_exceptions.md R343, R344, R346; the order of events is the spec's decision
D22, that no request is acknowledged D21; logs 21, 30). -/
def Obligations.StoppedState : Prop :=
  ∀ s : State, s.nextInputs.reset = false →
    (s.stopped = false → s.nextInputs.strq = true → ∃ t, step s = .next t ∧ t.stopped = true ∧ t.strqSeen = true ∧
      t.pc = s.pc ∧ KeepsRegs s t [] ∧ KeepsMemory s t ∧ t.iack = none ∧ t.bus = []) ∧
    (s.stopped = true → s.nextInputs.inji = none → s.nextInputs.pokes = [] → ∃ t, step s = .next t ∧
      t.stopped = !(s.strqSeen && !s.nextInputs.strq) ∧
      t.strqSeen = s.nextInputs.strq ∧
      t.pc = s.pc ∧ KeepsRegs s t [] ∧ KeepsMemory s t ∧ t.iack = none ∧ t.bus = [])

/-- An injected word is decoded and run in the stopped state with the data word of the same event on DBI, and pc stays
where it was unless the instruction is rspc; flow instructions are refused (60_exceptions.md R345, the spec's decision
D18; log 22). That the debug module's direct writes of the same boundary come first, and a release of STRQ only at a later
one, is the model's choice (logs 21 and 23). -/
def Obligations.Injection : Prop :=
  ∀ (s : State) (w : Word) (i : Instr), s.nextInputs.reset = false → s.stopped = true →
    s.nextInputs.inji = some w → decode w = .ok i →
      step s = exec i { s.begin.pokeAll s.nextInputs.pokes with strqSeen := s.strqSeen || s.nextInputs.strq } ∧
      (∀ t, step s = .next t → i ≠ .rspc → t.pc = s.pc) ∧
      (setsPc i = true → step s = .refused .injectedFlow)

/-! ### Interrupts and the security exception (60_exceptions.md) -/

/-- An external request seen by a running core with IE set in application mode is taken at the boundary, before any
fetch: the vector of the number on IRN is entered with pc saved, and IACK is emitted (R323, R326; the boundary, the entry
order of the table, what is not changed and the mode of the vector fetch are the spec's decisions D13 and D14, D1, D2, D23;
logs 30, 12, 13, 34). -/
def Obligations.ExternalInterrupt : Prop :=
  ∀ (s : State) (n : BitVec 4), s.nextInputs.reset = false → s.stopped = false → s.nextInputs.strq = false →
    s.nextInputs.irq = true → s.nextInputs.irn = n → s.cs.ie = true → s.cs.ir = false →
    s.accessStop false (vectorEntry s n) .long = none →
      ∃ t, step s = .next t ∧ Entered s.begin t n s.pc ∧ t.iack = some n

/-- In application mode a well-formed move or mfdp to CS or IA (none of its registers is EP) whose condition holds enters
interrupt I0 in the same step, through entry 0 at the base of the vector table (R324, D1, log 12): the destination is not
written, CC is saved, the return address is the instruction's own or the next one, as the parameter says, either where it
is open, and no IACK is emitted (R328, R330; the spec's decisions D3, D4, D6, logs 14, 15, 17; no IACK D14, log 30; IE and
IS kept D2, log 13; the mode of the vector fetch D23, log 34). Injected, it is refused (R345, D18, log 22); with IE clear
under `SECEXC_NEEDS_IE` it is refused (R329, D3, log 14). -/
def Obligations.SecurityException : Prop :=
  ∀ (s : State) (i : Instr) (rd : Reg), i.wellFormed = true → moveDest i = some rd → (rd = .cs ∨ rd = .ia) →
    (∀ c, condOf i = some c → condHolds c s.cc = true) → s.cs.ir = false →
    (s.stopped = false → (s.params.secExcNeedsIe = true → s.cs.ie = true) →
      s.accessStop false (vectorEntry s 0) .long = none →
        ∃ t ret, exec i s = .next t ∧ Entered s t 0 ret ∧ t.iack = s.iack ∧ (ret = s.pc ∨ ret = s.pc + 4#32) ∧
          (s.params.secExcIa = .offender → ret = s.pc) ∧ (s.params.secExcIa = .following → ret = s.pc + 4#32)) ∧
    (s.stopped = true → exec i s = .refused .injectedSecurityException) ∧
    (s.stopped = false → s.params.secExcNeedsIe = true → s.cs.ie = false →
      exec i s = .refused .maskedSecurityException)

/-! ### Rules of the whole machine -/

/-- Only the instructions the register chapter names change CC: addt, addc, subf, subc, comp, cmpc, andb, btts, a move or
mfdp to CC, and rtir; taking an interrupt does not (10_state.md R30). -/
def Obligations.FlagWriters : Prop :=
  (∀ (i : Instr) (s t : State), exec i s = .next t → t.cc ≠ s.cc →
    writesFlags i = true ∨ moveDest i = some .cc ∨ i = .rtir) ∧
  (∀ (n : BitVec 4) (s t : State), externalInterrupt n s = .next t → t.cc = s.cc) ∧
  (∀ s t : State, securityException s = .next t → t.cc = s.cc)

/-- The hidden flags change only where an interrupt is entered from application mode, and then they become CC
(10_state.md R31). -/
def Obligations.HiddenFlags : Prop :=
  ∀ s t : State, s.nextInputs.reset = false → step s = .next t → (t.hcc ≠ s.hcc ∨ t.hccSaved ≠ s.hccSaved) →
    s.cs.ir = false ∧ t.cs.ir = true ∧ t.hcc = s.cc ∧ t.hccSaved = true

/-- The fields of CS have only the writers the register chapter names: IE the four interrupt-enable instructions, IS scie,
IVTP a move or mfdp to CS in system mode. An instruction clears IR only if it is rtir in system mode, and sets it only by
the security exception: a move or mfdp to CS or IA in application mode, or an interrupt-enable instruction where the
parameter traps it (10_state.md R33 to R36, 60_exceptions.md R328, R336; that entry and rtir leave IE alone is the spec's
decision D2, log 13; which instructions trap is its decision D6, log 17). -/
def Obligations.StatusWriters : Prop :=
  ∀ (i : Instr) (s t : State), exec i s = .next t →
    (t.cs.ie ≠ s.cs.ie → i ∈ [Instr.stie, .clie, .scie, .rsie]) ∧
    (t.cs.is ≠ s.cs.is → i = .scie) ∧
    (t.cs.ivtp ≠ s.cs.ivtp → moveDest i = some .cs ∧ s.cs.ir = true) ∧
    (s.cs.ir = true → t.cs.ir = false → i = .rtir) ∧
    (s.cs.ir = false → t.cs.ir = true → moveDest i = some .cs ∨ moveDest i = some .ia ∨
      (i ∈ [Instr.stie, .clie, .scie, .rsie] ∧ s.params.ieOps = .securityException))

/-- No step of the application changes IVTP, and none changes IA without leaving application mode: both belong to system
mode (60_exceptions.md R335, R328). -/
def Obligations.ApplicationModeProtection : Prop :=
  ∀ s t : State, s.cs.ir = false → s.nextInputs.reset = false → step s = .next t →
    t.cs.ivtp = s.cs.ivtp ∧ (t.cs.ir = false → t.readReg .ia = s.readReg .ia)

/-- System mode is left only by an rtir fetched by the running core (60_exceptions.md R335, 10_state.md R33; that an
injected rtir is refused is the spec's decision D18, log 22). -/
def Obligations.SystemModeLeftByReturn : Prop :=
  ∀ s t : State, s.cs.ir = true → step s = .next t → t.cs.ir = false →
    s.stopped = false ∧ decode (s.codeWord (wordAligned s.pc)) = .ok .rtir ∧ t.pc = s.readReg .ia

/-- A running program changes no byte of instruction memory, and no step changes the parameters of the part
(20_memory.md R60 and R78 with the spec's decision D12, logs 27 and 25; that a reset keeps instruction memory is the
model's choice, log 24). -/
def Obligations.CodeAndPartFixed : Prop :=
  ∀ s t : State, step s = .next t →
    t.params = s.params ∧ (s.stopped = false → ∀ a, t.imem.read a = s.imem.read a)

/-- Data memory is written by the stores alone: an instruction that is none of the 21 store forms leaves every byte as it
was (20_memory.md R61). -/
def Obligations.OnlyStoresWrite : Prop :=
  ∀ (i : Instr) (s t : State), exec i s = .next t →
    (∀ sz m rs cnd, i ≠ Size.form sz rs m cnd) → (∀ sz d sel an, i ≠ Size.rgsForm sz d sel an) → KeepsMemory s t
end

