-- ==== Sys2Proof/Laws/State.lean ====
section
/-! SUPPORT. What each state update leaves alone and what it sets: one lemma per field and update. -/

namespace Sys2Proof.Machine

/-! `setFlags` -/

@[simp] theorem setFlags_gprs (s : State) (f : Flags) : (s.setFlags f).gprs = s.gprs := rfl
@[simp] theorem setFlags_lc (s : State) (f : Flags) : (s.setFlags f).lc = s.lc := rfl
@[simp] theorem setFlags_cc (s : State) (f : Flags) : (s.setFlags f).cc = f := rfl
@[simp] theorem setFlags_cs (s : State) (f : Flags) : (s.setFlags f).cs = s.cs := rfl
@[simp] theorem setFlags_ep (s : State) (f : Flags) : (s.setFlags f).ep = s.ep := rfl
@[simp] theorem setFlags_ta (s : State) (f : Flags) : (s.setFlags f).ta = s.ta := rfl
@[simp] theorem setFlags_sa (s : State) (f : Flags) : (s.setFlags f).sa = s.sa := rfl
@[simp] theorem setFlags_ia (s : State) (f : Flags) : (s.setFlags f).ia = s.ia := rfl
@[simp] theorem setFlags_hcc (s : State) (f : Flags) : (s.setFlags f).hcc = s.hcc := rfl
@[simp] theorem setFlags_hccSaved (s : State) (f : Flags) : (s.setFlags f).hccSaved = s.hccSaved := rfl
@[simp] theorem setFlags_pc (s : State) (f : Flags) : (s.setFlags f).pc = s.pc := rfl
@[simp] theorem setFlags_stopped (s : State) (f : Flags) : (s.setFlags f).stopped = s.stopped := rfl
@[simp] theorem setFlags_strqSeen (s : State) (f : Flags) : (s.setFlags f).strqSeen = s.strqSeen := rfl
@[simp] theorem setFlags_lia (s : State) (f : Flags) : (s.setFlags f).lia = s.lia := rfl
@[simp] theorem setFlags_dbo (s : State) (f : Flags) : (s.setFlags f).dbo = s.dbo := rfl
@[simp] theorem setFlags_iack (s : State) (f : Flags) : (s.setFlags f).iack = s.iack := rfl
@[simp] theorem setFlags_bus (s : State) (f : Flags) : (s.setFlags f).bus = s.bus := rfl
@[simp] theorem setFlags_dmem (s : State) (f : Flags) : (s.setFlags f).dmem = s.dmem := rfl
@[simp] theorem setFlags_imem (s : State) (f : Flags) : (s.setFlags f).imem = s.imem := rfl
@[simp] theorem setFlags_inputs (s : State) (f : Flags) : (s.setFlags f).inputs = s.inputs := rfl
@[simp] theorem setFlags_dbi (s : State) (f : Flags) : (s.setFlags f).dbi = s.dbi := rfl
@[simp] theorem setFlags_draws (s : State) (f : Flags) : (s.setFlags f).draws = s.draws := rfl
@[simp] theorem setFlags_params (s : State) (f : Flags) : (s.setFlags f).params = s.params := rfl

/-! `advance` -/

@[simp] theorem advance_gprs (s : State) : (s.advance).gprs = s.gprs := rfl
@[simp] theorem advance_lc (s : State) : (s.advance).lc = s.lc := rfl
@[simp] theorem advance_cc (s : State) : (s.advance).cc = s.cc := rfl
@[simp] theorem advance_cs (s : State) : (s.advance).cs = s.cs := rfl
@[simp] theorem advance_ep (s : State) : (s.advance).ep = s.ep := rfl
@[simp] theorem advance_ta (s : State) : (s.advance).ta = s.ta := rfl
@[simp] theorem advance_sa (s : State) : (s.advance).sa = s.sa := rfl
@[simp] theorem advance_ia (s : State) : (s.advance).ia = s.ia := rfl
@[simp] theorem advance_hcc (s : State) : (s.advance).hcc = s.hcc := rfl
@[simp] theorem advance_hccSaved (s : State) : (s.advance).hccSaved = s.hccSaved := rfl
@[simp] theorem advance_pc (s : State) : (s.advance).pc = if s.stopped then s.pc else s.pc + 4#32 := rfl
@[simp] theorem advance_stopped (s : State) : (s.advance).stopped = s.stopped := rfl
@[simp] theorem advance_strqSeen (s : State) : (s.advance).strqSeen = s.strqSeen := rfl
@[simp] theorem advance_lia (s : State) : (s.advance).lia = s.lia := rfl
@[simp] theorem advance_dbo (s : State) : (s.advance).dbo = s.dbo := rfl
@[simp] theorem advance_iack (s : State) : (s.advance).iack = s.iack := rfl
@[simp] theorem advance_bus (s : State) : (s.advance).bus = s.bus := rfl
@[simp] theorem advance_dmem (s : State) : (s.advance).dmem = s.dmem := rfl
@[simp] theorem advance_imem (s : State) : (s.advance).imem = s.imem := rfl
@[simp] theorem advance_inputs (s : State) : (s.advance).inputs = s.inputs := rfl
@[simp] theorem advance_dbi (s : State) : (s.advance).dbi = s.dbi := rfl
@[simp] theorem advance_draws (s : State) : (s.advance).draws = s.draws := rfl
@[simp] theorem advance_params (s : State) : (s.advance).params = s.params := rfl

/-! `jumpTo` -/

@[simp] theorem jumpTo_gprs (s : State) (a : Word) : (s.jumpTo a).gprs = s.gprs := rfl
@[simp] theorem jumpTo_lc (s : State) (a : Word) : (s.jumpTo a).lc = s.lc := rfl
@[simp] theorem jumpTo_cc (s : State) (a : Word) : (s.jumpTo a).cc = s.cc := rfl
@[simp] theorem jumpTo_cs (s : State) (a : Word) : (s.jumpTo a).cs = s.cs := rfl
@[simp] theorem jumpTo_ep (s : State) (a : Word) : (s.jumpTo a).ep = s.ep := rfl
@[simp] theorem jumpTo_ta (s : State) (a : Word) : (s.jumpTo a).ta = s.ta := rfl
@[simp] theorem jumpTo_sa (s : State) (a : Word) : (s.jumpTo a).sa = s.sa := rfl
@[simp] theorem jumpTo_ia (s : State) (a : Word) : (s.jumpTo a).ia = s.ia := rfl
@[simp] theorem jumpTo_hcc (s : State) (a : Word) : (s.jumpTo a).hcc = s.hcc := rfl
@[simp] theorem jumpTo_hccSaved (s : State) (a : Word) : (s.jumpTo a).hccSaved = s.hccSaved := rfl
@[simp] theorem jumpTo_pc (s : State) (a : Word) : (s.jumpTo a).pc = a := rfl
@[simp] theorem jumpTo_stopped (s : State) (a : Word) : (s.jumpTo a).stopped = s.stopped := rfl
@[simp] theorem jumpTo_strqSeen (s : State) (a : Word) : (s.jumpTo a).strqSeen = s.strqSeen := rfl
@[simp] theorem jumpTo_lia (s : State) (a : Word) : (s.jumpTo a).lia = s.lia := rfl
@[simp] theorem jumpTo_dbo (s : State) (a : Word) : (s.jumpTo a).dbo = s.dbo := rfl
@[simp] theorem jumpTo_iack (s : State) (a : Word) : (s.jumpTo a).iack = s.iack := rfl
@[simp] theorem jumpTo_bus (s : State) (a : Word) : (s.jumpTo a).bus = s.bus := rfl
@[simp] theorem jumpTo_dmem (s : State) (a : Word) : (s.jumpTo a).dmem = s.dmem := rfl
@[simp] theorem jumpTo_imem (s : State) (a : Word) : (s.jumpTo a).imem = s.imem := rfl
@[simp] theorem jumpTo_inputs (s : State) (a : Word) : (s.jumpTo a).inputs = s.inputs := rfl
@[simp] theorem jumpTo_dbi (s : State) (a : Word) : (s.jumpTo a).dbi = s.dbi := rfl
@[simp] theorem jumpTo_draws (s : State) (a : Word) : (s.jumpTo a).draws = s.draws := rfl
@[simp] theorem jumpTo_params (s : State) (a : Word) : (s.jumpTo a).params = s.params := rfl

/-! `drawn` -/

@[simp] theorem drawn_gprs (s : State) : (s.drawn).gprs = s.gprs := rfl
@[simp] theorem drawn_lc (s : State) : (s.drawn).lc = s.lc := rfl
@[simp] theorem drawn_cc (s : State) : (s.drawn).cc = s.cc := rfl
@[simp] theorem drawn_cs (s : State) : (s.drawn).cs = s.cs := rfl
@[simp] theorem drawn_ep (s : State) : (s.drawn).ep = s.ep := rfl
@[simp] theorem drawn_ta (s : State) : (s.drawn).ta = s.ta := rfl
@[simp] theorem drawn_sa (s : State) : (s.drawn).sa = s.sa := rfl
@[simp] theorem drawn_ia (s : State) : (s.drawn).ia = s.ia := rfl
@[simp] theorem drawn_hcc (s : State) : (s.drawn).hcc = s.hcc := rfl
@[simp] theorem drawn_hccSaved (s : State) : (s.drawn).hccSaved = s.hccSaved := rfl
@[simp] theorem drawn_pc (s : State) : (s.drawn).pc = s.pc := rfl
@[simp] theorem drawn_stopped (s : State) : (s.drawn).stopped = s.stopped := rfl
@[simp] theorem drawn_strqSeen (s : State) : (s.drawn).strqSeen = s.strqSeen := rfl
@[simp] theorem drawn_lia (s : State) : (s.drawn).lia = s.lia := rfl
@[simp] theorem drawn_dbo (s : State) : (s.drawn).dbo = s.dbo := rfl
@[simp] theorem drawn_iack (s : State) : (s.drawn).iack = s.iack := rfl
@[simp] theorem drawn_bus (s : State) : (s.drawn).bus = s.bus := rfl
@[simp] theorem drawn_dmem (s : State) : (s.drawn).dmem = s.dmem := rfl
@[simp] theorem drawn_imem (s : State) : (s.drawn).imem = s.imem := rfl
@[simp] theorem drawn_inputs (s : State) : (s.drawn).inputs = s.inputs := rfl
@[simp] theorem drawn_dbi (s : State) : (s.drawn).dbi = s.dbi := rfl
@[simp] theorem drawn_draws (s : State) : (s.drawn).draws = s.draws + 1 := rfl
@[simp] theorem drawn_params (s : State) : (s.drawn).params = s.params := rfl

/-! `signal` -/

@[simp] theorem signal_gprs (s : State) (a : BusAccess) : (s.signal a).gprs = s.gprs := rfl
@[simp] theorem signal_lc (s : State) (a : BusAccess) : (s.signal a).lc = s.lc := rfl
@[simp] theorem signal_cc (s : State) (a : BusAccess) : (s.signal a).cc = s.cc := rfl
@[simp] theorem signal_cs (s : State) (a : BusAccess) : (s.signal a).cs = s.cs := rfl
@[simp] theorem signal_ep (s : State) (a : BusAccess) : (s.signal a).ep = s.ep := rfl
@[simp] theorem signal_ta (s : State) (a : BusAccess) : (s.signal a).ta = s.ta := rfl
@[simp] theorem signal_sa (s : State) (a : BusAccess) : (s.signal a).sa = s.sa := rfl
@[simp] theorem signal_ia (s : State) (a : BusAccess) : (s.signal a).ia = s.ia := rfl
@[simp] theorem signal_hcc (s : State) (a : BusAccess) : (s.signal a).hcc = s.hcc := rfl
@[simp] theorem signal_hccSaved (s : State) (a : BusAccess) : (s.signal a).hccSaved = s.hccSaved := rfl
@[simp] theorem signal_pc (s : State) (a : BusAccess) : (s.signal a).pc = s.pc := rfl
@[simp] theorem signal_stopped (s : State) (a : BusAccess) : (s.signal a).stopped = s.stopped := rfl
@[simp] theorem signal_strqSeen (s : State) (a : BusAccess) : (s.signal a).strqSeen = s.strqSeen := rfl
@[simp] theorem signal_lia (s : State) (a : BusAccess) : (s.signal a).lia = s.lia := rfl
@[simp] theorem signal_dbo (s : State) (a : BusAccess) : (s.signal a).dbo = s.dbo := rfl
@[simp] theorem signal_iack (s : State) (a : BusAccess) : (s.signal a).iack = s.iack := rfl
@[simp] theorem signal_bus (s : State) (a : BusAccess) : (s.signal a).bus = s.bus ++ [a] := rfl
@[simp] theorem signal_dmem (s : State) (a : BusAccess) : (s.signal a).dmem = s.dmem := rfl
@[simp] theorem signal_imem (s : State) (a : BusAccess) : (s.signal a).imem = s.imem := rfl
@[simp] theorem signal_inputs (s : State) (a : BusAccess) : (s.signal a).inputs = s.inputs := rfl
@[simp] theorem signal_dbi (s : State) (a : BusAccess) : (s.signal a).dbi = s.dbi := rfl
@[simp] theorem signal_draws (s : State) (a : BusAccess) : (s.signal a).draws = s.draws := rfl
@[simp] theorem signal_params (s : State) (a : BusAccess) : (s.signal a).params = s.params := rfl

/-! `enterStopped` -/

@[simp] theorem enterStopped_gprs (s : State) : (s.enterStopped).gprs = s.gprs := rfl
@[simp] theorem enterStopped_lc (s : State) : (s.enterStopped).lc = s.lc := rfl
@[simp] theorem enterStopped_cc (s : State) : (s.enterStopped).cc = s.cc := rfl
@[simp] theorem enterStopped_cs (s : State) : (s.enterStopped).cs = s.cs := rfl
@[simp] theorem enterStopped_ep (s : State) : (s.enterStopped).ep = s.ep := rfl
@[simp] theorem enterStopped_ta (s : State) : (s.enterStopped).ta = s.ta := rfl
@[simp] theorem enterStopped_sa (s : State) : (s.enterStopped).sa = s.sa := rfl
@[simp] theorem enterStopped_ia (s : State) : (s.enterStopped).ia = s.ia := rfl
@[simp] theorem enterStopped_hcc (s : State) : (s.enterStopped).hcc = s.hcc := rfl
@[simp] theorem enterStopped_hccSaved (s : State) : (s.enterStopped).hccSaved = s.hccSaved := rfl
@[simp] theorem enterStopped_pc (s : State) : (s.enterStopped).pc = s.pc := rfl
@[simp] theorem enterStopped_stopped (s : State) : (s.enterStopped).stopped = true := rfl
@[simp] theorem enterStopped_strqSeen (s : State) : (s.enterStopped).strqSeen = true := rfl
@[simp] theorem enterStopped_lia (s : State) : (s.enterStopped).lia = s.lia := rfl
@[simp] theorem enterStopped_dbo (s : State) : (s.enterStopped).dbo = s.dbo := rfl
@[simp] theorem enterStopped_iack (s : State) : (s.enterStopped).iack = s.iack := rfl
@[simp] theorem enterStopped_bus (s : State) : (s.enterStopped).bus = s.bus := rfl
@[simp] theorem enterStopped_dmem (s : State) : (s.enterStopped).dmem = s.dmem := rfl
@[simp] theorem enterStopped_imem (s : State) : (s.enterStopped).imem = s.imem := rfl
@[simp] theorem enterStopped_inputs (s : State) : (s.enterStopped).inputs = s.inputs := rfl
@[simp] theorem enterStopped_dbi (s : State) : (s.enterStopped).dbi = s.dbi := rfl
@[simp] theorem enterStopped_draws (s : State) : (s.enterStopped).draws = s.draws := rfl
@[simp] theorem enterStopped_params (s : State) : (s.enterStopped).params = s.params := rfl

/-! `begin` -/

@[simp] theorem begin_gprs (s : State) : (s.begin).gprs = s.gprs := rfl
@[simp] theorem begin_lc (s : State) : (s.begin).lc = s.lc := rfl
@[simp] theorem begin_cc (s : State) : (s.begin).cc = s.cc := rfl
@[simp] theorem begin_cs (s : State) : (s.begin).cs = s.cs := rfl
@[simp] theorem begin_ep (s : State) : (s.begin).ep = s.ep := rfl
@[simp] theorem begin_ta (s : State) : (s.begin).ta = s.ta := rfl
@[simp] theorem begin_sa (s : State) : (s.begin).sa = s.sa := rfl
@[simp] theorem begin_ia (s : State) : (s.begin).ia = s.ia := rfl
@[simp] theorem begin_hcc (s : State) : (s.begin).hcc = s.hcc := rfl
@[simp] theorem begin_hccSaved (s : State) : (s.begin).hccSaved = s.hccSaved := rfl
@[simp] theorem begin_pc (s : State) : (s.begin).pc = s.pc := rfl
@[simp] theorem begin_stopped (s : State) : (s.begin).stopped = s.stopped := rfl
@[simp] theorem begin_strqSeen (s : State) : (s.begin).strqSeen = s.strqSeen := rfl
@[simp] theorem begin_lia (s : State) : (s.begin).lia = s.lia := rfl
@[simp] theorem begin_dbo (s : State) : (s.begin).dbo = s.dbo := rfl
@[simp] theorem begin_iack (s : State) : (s.begin).iack = none := rfl
@[simp] theorem begin_bus (s : State) : (s.begin).bus = [] := rfl
@[simp] theorem begin_dmem (s : State) : (s.begin).dmem = s.dmem := rfl
@[simp] theorem begin_imem (s : State) : (s.begin).imem = s.imem := rfl
@[simp] theorem begin_inputs (s : State) : (s.begin).inputs = s.inputs.tail := rfl
@[simp] theorem begin_dbi (s : State) : (s.begin).dbi = s.nextInputs.dbi := rfl
@[simp] theorem begin_draws (s : State) : (s.begin).draws = s.draws := rfl
@[simp] theorem begin_params (s : State) : (s.begin).params = s.params := rfl

/-! `fetched` -/

@[simp] theorem fetched_gprs (s : State) : (s.fetched).gprs = s.gprs := rfl
@[simp] theorem fetched_lc (s : State) : (s.fetched).lc = s.lc := rfl
@[simp] theorem fetched_cc (s : State) : (s.fetched).cc = s.cc := rfl
@[simp] theorem fetched_cs (s : State) : (s.fetched).cs = s.cs := rfl
@[simp] theorem fetched_ep (s : State) : (s.fetched).ep = s.ep := rfl
@[simp] theorem fetched_ta (s : State) : (s.fetched).ta = s.ta := rfl
@[simp] theorem fetched_sa (s : State) : (s.fetched).sa = s.sa := rfl
@[simp] theorem fetched_ia (s : State) : (s.fetched).ia = s.ia := rfl
@[simp] theorem fetched_hcc (s : State) : (s.fetched).hcc = s.hcc := rfl
@[simp] theorem fetched_hccSaved (s : State) : (s.fetched).hccSaved = s.hccSaved := rfl
@[simp] theorem fetched_pc (s : State) : (s.fetched).pc = s.pc := rfl
@[simp] theorem fetched_stopped (s : State) : (s.fetched).stopped = s.stopped := rfl
@[simp] theorem fetched_strqSeen (s : State) : (s.fetched).strqSeen = s.strqSeen := rfl
@[simp] theorem fetched_lia (s : State) : (s.fetched).lia = s.pc := rfl
@[simp] theorem fetched_dbo (s : State) : (s.fetched).dbo = s.dbo := rfl
@[simp] theorem fetched_iack (s : State) : (s.fetched).iack = s.iack := rfl
@[simp] theorem fetched_dmem (s : State) : (s.fetched).dmem = s.dmem := rfl
@[simp] theorem fetched_imem (s : State) : (s.fetched).imem = s.imem := rfl
@[simp] theorem fetched_inputs (s : State) : (s.fetched).inputs = s.inputs := rfl
@[simp] theorem fetched_dbi (s : State) : (s.fetched).dbi = s.dbi := rfl
@[simp] theorem fetched_draws (s : State) : (s.fetched).draws = s.draws := rfl
@[simp] theorem fetched_params (s : State) : (s.fetched).params = s.params := rfl

/-! `afterRead` -/

@[simp] theorem afterRead_gprs (s : State) (a : Word) (z : Size) : (s.afterRead a z).gprs = s.gprs := by
  unfold State.afterRead; split <;> rfl
@[simp] theorem afterRead_lc (s : State) (a : Word) (z : Size) : (s.afterRead a z).lc = s.lc := by
  unfold State.afterRead; split <;> rfl
@[simp] theorem afterRead_cc (s : State) (a : Word) (z : Size) : (s.afterRead a z).cc = s.cc := by
  unfold State.afterRead; split <;> rfl
@[simp] theorem afterRead_cs (s : State) (a : Word) (z : Size) : (s.afterRead a z).cs = s.cs := by
  unfold State.afterRead; split <;> rfl
@[simp] theorem afterRead_ep (s : State) (a : Word) (z : Size) : (s.afterRead a z).ep = s.ep := by
  unfold State.afterRead; split <;> rfl
@[simp] theorem afterRead_ta (s : State) (a : Word) (z : Size) : (s.afterRead a z).ta = s.ta := by
  unfold State.afterRead; split <;> rfl
@[simp] theorem afterRead_sa (s : State) (a : Word) (z : Size) : (s.afterRead a z).sa = s.sa := by
  unfold State.afterRead; split <;> rfl
@[simp] theorem afterRead_ia (s : State) (a : Word) (z : Size) : (s.afterRead a z).ia = s.ia := by
  unfold State.afterRead; split <;> rfl
@[simp] theorem afterRead_hcc (s : State) (a : Word) (z : Size) : (s.afterRead a z).hcc = s.hcc := by
  unfold State.afterRead; split <;> rfl
@[simp] theorem afterRead_hccSaved (s : State) (a : Word) (z : Size) : (s.afterRead a z).hccSaved = s.hccSaved := by
  unfold State.afterRead; split <;> rfl
@[simp] theorem afterRead_pc (s : State) (a : Word) (z : Size) : (s.afterRead a z).pc = s.pc := by
  unfold State.afterRead; split <;> rfl
@[simp] theorem afterRead_stopped (s : State) (a : Word) (z : Size) : (s.afterRead a z).stopped = s.stopped := by
  unfold State.afterRead; split <;> rfl
@[simp] theorem afterRead_strqSeen (s : State) (a : Word) (z : Size) : (s.afterRead a z).strqSeen = s.strqSeen := by
  unfold State.afterRead; split <;> rfl
@[simp] theorem afterRead_lia (s : State) (a : Word) (z : Size) : (s.afterRead a z).lia = s.lia := by
  unfold State.afterRead; split <;> rfl
@[simp] theorem afterRead_dbo (s : State) (a : Word) (z : Size) : (s.afterRead a z).dbo = s.dbo := by
  unfold State.afterRead; split <;> rfl
@[simp] theorem afterRead_iack (s : State) (a : Word) (z : Size) : (s.afterRead a z).iack = s.iack := by
  unfold State.afterRead; split <;> rfl
@[simp] theorem afterRead_bus (s : State) (a : Word) (z : Size) : (s.afterRead a z).bus = s.bus := by
  unfold State.afterRead; split <;> rfl
@[simp] theorem afterRead_dmem (s : State) (a : Word) (z : Size) : (s.afterRead a z).dmem = s.dmem := by
  unfold State.afterRead; split <;> rfl
@[simp] theorem afterRead_imem (s : State) (a : Word) (z : Size) : (s.afterRead a z).imem = s.imem := by
  unfold State.afterRead; split <;> rfl
@[simp] theorem afterRead_inputs (s : State) (a : Word) (z : Size) : (s.afterRead a z).inputs = s.inputs := by
  unfold State.afterRead; split <;> rfl
@[simp] theorem afterRead_dbi (s : State) (a : Word) (z : Size) : (s.afterRead a z).dbi = s.dbi := by
  unfold State.afterRead; split <;> rfl
@[simp] theorem afterRead_params (s : State) (a : Word) (z : Size) : (s.afterRead a z).params = s.params := by
  unfold State.afterRead; split <;> rfl

/-! `enterInterrupt` -/

@[simp] theorem enterInterrupt_gprs (s : State) (n : BitVec 4) (a : Word) : (s.enterInterrupt n a).gprs = s.gprs := by
  simp [State.enterInterrupt]
@[simp] theorem enterInterrupt_lc (s : State) (n : BitVec 4) (a : Word) : (s.enterInterrupt n a).lc = s.lc := by
  simp [State.enterInterrupt]
@[simp] theorem enterInterrupt_cc (s : State) (n : BitVec 4) (a : Word) : (s.enterInterrupt n a).cc = s.cc := by
  simp [State.enterInterrupt]
@[simp] theorem enterInterrupt_cs (s : State) (n : BitVec 4) (a : Word) : (s.enterInterrupt n a).cs = { s.cs with ir := true } := rfl
@[simp] theorem enterInterrupt_ep (s : State) (n : BitVec 4) (a : Word) : (s.enterInterrupt n a).ep = s.ep := by
  simp [State.enterInterrupt]
@[simp] theorem enterInterrupt_ta (s : State) (n : BitVec 4) (a : Word) : (s.enterInterrupt n a).ta = s.ta := by
  simp [State.enterInterrupt]
@[simp] theorem enterInterrupt_sa (s : State) (n : BitVec 4) (a : Word) : (s.enterInterrupt n a).sa = s.sa := by
  simp [State.enterInterrupt]
@[simp] theorem enterInterrupt_ia (s : State) (n : BitVec 4) (a : Word) : (s.enterInterrupt n a).ia = linkBits a := rfl
@[simp] theorem enterInterrupt_hcc (s : State) (n : BitVec 4) (a : Word) : (s.enterInterrupt n a).hcc = s.cc := rfl
@[simp] theorem enterInterrupt_hccSaved (s : State) (n : BitVec 4) (a : Word) : (s.enterInterrupt n a).hccSaved = true := rfl
@[simp] theorem enterInterrupt_pc (s : State) (n : BitVec 4) (a : Word) : (s.enterInterrupt n a).pc = wordAligned (s.memRead (s.vectorAddr n) .long) := rfl
@[simp] theorem enterInterrupt_stopped (s : State) (n : BitVec 4) (a : Word) : (s.enterInterrupt n a).stopped = s.stopped := by
  simp [State.enterInterrupt]
@[simp] theorem enterInterrupt_strqSeen (s : State) (n : BitVec 4) (a : Word) : (s.enterInterrupt n a).strqSeen = s.strqSeen := by
  simp [State.enterInterrupt]
@[simp] theorem enterInterrupt_lia (s : State) (n : BitVec 4) (a : Word) : (s.enterInterrupt n a).lia = s.lia := by
  simp [State.enterInterrupt]
@[simp] theorem enterInterrupt_dbo (s : State) (n : BitVec 4) (a : Word) : (s.enterInterrupt n a).dbo = s.dbo := by
  simp [State.enterInterrupt]
@[simp] theorem enterInterrupt_iack (s : State) (n : BitVec 4) (a : Word) : (s.enterInterrupt n a).iack = s.iack := by
  simp [State.enterInterrupt]
@[simp] theorem enterInterrupt_bus (s : State) (n : BitVec 4) (a : Word) : (s.enterInterrupt n a).bus = s.bus ++ [s.vectorAccess n] := rfl
@[simp] theorem enterInterrupt_dmem (s : State) (n : BitVec 4) (a : Word) : (s.enterInterrupt n a).dmem = s.dmem := by
  simp [State.enterInterrupt]
@[simp] theorem enterInterrupt_imem (s : State) (n : BitVec 4) (a : Word) : (s.enterInterrupt n a).imem = s.imem := by
  simp [State.enterInterrupt]
@[simp] theorem enterInterrupt_inputs (s : State) (n : BitVec 4) (a : Word) : (s.enterInterrupt n a).inputs = s.inputs := by
  simp [State.enterInterrupt]
@[simp] theorem enterInterrupt_dbi (s : State) (n : BitVec 4) (a : Word) : (s.enterInterrupt n a).dbi = s.dbi := by
  simp [State.enterInterrupt]
@[simp] theorem enterInterrupt_params (s : State) (n : BitVec 4) (a : Word) : (s.enterInterrupt n a).params = s.params := by
  simp [State.enterInterrupt]

/-! `coldStart` -/

@[simp] theorem coldStart_cc (s : State) (n : BitVec 4) : (s.coldStart n).cc = Flags.clear := rfl
@[simp] theorem coldStart_cs (s : State) (n : BitVec 4) : (s.coldStart n).cs = State.reset.cs := rfl
@[simp] theorem coldStart_ia (s : State) (n : BitVec 4) : (s.coldStart n).ia = s.ia := rfl
@[simp] theorem coldStart_hccSaved (s : State) (n : BitVec 4) : (s.coldStart n).hccSaved = false := rfl
@[simp] theorem coldStart_pc (s : State) (n : BitVec 4) : (s.coldStart n).pc = n ++ 0#28 := rfl
@[simp] theorem coldStart_stopped (s : State) (n : BitVec 4) : (s.coldStart n).stopped = false := rfl
@[simp] theorem coldStart_strqSeen (s : State) (n : BitVec 4) : (s.coldStart n).strqSeen = false := rfl
@[simp] theorem coldStart_iack (s : State) (n : BitVec 4) : (s.coldStart n).iack = none := rfl
@[simp] theorem coldStart_bus (s : State) (n : BitVec 4) : (s.coldStart n).bus = [] := rfl
@[simp] theorem coldStart_dmem (s : State) (n : BitVec 4) : (s.coldStart n).dmem = s.dmem := rfl
@[simp] theorem coldStart_imem (s : State) (n : BitVec 4) : (s.coldStart n).imem = s.imem := rfl
@[simp] theorem coldStart_inputs (s : State) (n : BitVec 4) : (s.coldStart n).inputs = s.inputs := rfl
@[simp] theorem coldStart_dbi (s : State) (n : BitVec 4) : (s.coldStart n).dbi = s.dbi := rfl
@[simp] theorem coldStart_draws (s : State) (n : BitVec 4) : (s.coldStart n).draws = s.draws := rfl
@[simp] theorem coldStart_params (s : State) (n : BitVec 4) : (s.coldStart n).params = s.params := rfl

/-! `readDbi` -/

@[simp] theorem readDbi_gprs (s : State) : (s.readDbi).gprs = s.gprs := by
  unfold State.readDbi; split <;> rfl
@[simp] theorem readDbi_lc (s : State) : (s.readDbi).lc = s.lc := by
  unfold State.readDbi; split <;> rfl
@[simp] theorem readDbi_cc (s : State) : (s.readDbi).cc = s.cc := by
  unfold State.readDbi; split <;> rfl
@[simp] theorem readDbi_cs (s : State) : (s.readDbi).cs = s.cs := by
  unfold State.readDbi; split <;> rfl
@[simp] theorem readDbi_ep (s : State) : (s.readDbi).ep = s.ep := by
  unfold State.readDbi; split <;> rfl
@[simp] theorem readDbi_ta (s : State) : (s.readDbi).ta = s.ta := by
  unfold State.readDbi; split <;> rfl
@[simp] theorem readDbi_sa (s : State) : (s.readDbi).sa = s.sa := by
  unfold State.readDbi; split <;> rfl
@[simp] theorem readDbi_ia (s : State) : (s.readDbi).ia = s.ia := by
  unfold State.readDbi; split <;> rfl
@[simp] theorem readDbi_hcc (s : State) : (s.readDbi).hcc = s.hcc := by
  unfold State.readDbi; split <;> rfl
@[simp] theorem readDbi_hccSaved (s : State) : (s.readDbi).hccSaved = s.hccSaved := by
  unfold State.readDbi; split <;> rfl
@[simp] theorem readDbi_pc (s : State) : (s.readDbi).pc = s.pc := by
  unfold State.readDbi; split <;> rfl
@[simp] theorem readDbi_stopped (s : State) : (s.readDbi).stopped = s.stopped := by
  unfold State.readDbi; split <;> rfl
@[simp] theorem readDbi_strqSeen (s : State) : (s.readDbi).strqSeen = s.strqSeen := by
  unfold State.readDbi; split <;> rfl
@[simp] theorem readDbi_lia (s : State) : (s.readDbi).lia = s.lia := by
  unfold State.readDbi; split <;> rfl
@[simp] theorem readDbi_dbo (s : State) : (s.readDbi).dbo = s.dbo := by
  unfold State.readDbi; split <;> rfl
@[simp] theorem readDbi_iack (s : State) : (s.readDbi).iack = s.iack := by
  unfold State.readDbi; split <;> rfl
@[simp] theorem readDbi_bus (s : State) : (s.readDbi).bus = s.bus := by
  unfold State.readDbi; split <;> rfl
@[simp] theorem readDbi_dmem (s : State) : (s.readDbi).dmem = s.dmem := by
  unfold State.readDbi; split <;> rfl
@[simp] theorem readDbi_imem (s : State) : (s.readDbi).imem = s.imem := by
  unfold State.readDbi; split <;> rfl
@[simp] theorem readDbi_inputs (s : State) : (s.readDbi).inputs = s.inputs := by
  unfold State.readDbi; split <;> rfl
@[simp] theorem readDbi_dbi (s : State) : (s.readDbi).dbi = s.dbi := by
  unfold State.readDbi; split <;> rfl
@[simp] theorem readDbi_params (s : State) : (s.readDbi).params = s.params := by
  unfold State.readDbi; split <;> rfl

/-! `returnChosen` -/

@[simp] theorem returnChosen_gprs (s : State) : (s.returnChosen).gprs = s.gprs := by
  unfold State.returnChosen; split <;> rfl
@[simp] theorem returnChosen_lc (s : State) : (s.returnChosen).lc = s.lc := by
  unfold State.returnChosen; split <;> rfl
@[simp] theorem returnChosen_cc (s : State) : (s.returnChosen).cc = s.cc := by
  unfold State.returnChosen; split <;> rfl
@[simp] theorem returnChosen_cs (s : State) : (s.returnChosen).cs = s.cs := by
  unfold State.returnChosen; split <;> rfl
@[simp] theorem returnChosen_ep (s : State) : (s.returnChosen).ep = s.ep := by
  unfold State.returnChosen; split <;> rfl
@[simp] theorem returnChosen_ta (s : State) : (s.returnChosen).ta = s.ta := by
  unfold State.returnChosen; split <;> rfl
@[simp] theorem returnChosen_sa (s : State) : (s.returnChosen).sa = s.sa := by
  unfold State.returnChosen; split <;> rfl
@[simp] theorem returnChosen_ia (s : State) : (s.returnChosen).ia = s.ia := by
  unfold State.returnChosen; split <;> rfl
@[simp] theorem returnChosen_hcc (s : State) : (s.returnChosen).hcc = s.hcc := by
  unfold State.returnChosen; split <;> rfl
@[simp] theorem returnChosen_hccSaved (s : State) : (s.returnChosen).hccSaved = s.hccSaved := by
  unfold State.returnChosen; split <;> rfl
@[simp] theorem returnChosen_pc (s : State) : (s.returnChosen).pc = s.pc := by
  unfold State.returnChosen; split <;> rfl
@[simp] theorem returnChosen_stopped (s : State) : (s.returnChosen).stopped = s.stopped := by
  unfold State.returnChosen; split <;> rfl
@[simp] theorem returnChosen_strqSeen (s : State) : (s.returnChosen).strqSeen = s.strqSeen := by
  unfold State.returnChosen; split <;> rfl
@[simp] theorem returnChosen_lia (s : State) : (s.returnChosen).lia = s.lia := by
  unfold State.returnChosen; split <;> rfl
@[simp] theorem returnChosen_dbo (s : State) : (s.returnChosen).dbo = s.dbo := by
  unfold State.returnChosen; split <;> rfl
@[simp] theorem returnChosen_iack (s : State) : (s.returnChosen).iack = s.iack := by
  unfold State.returnChosen; split <;> rfl
@[simp] theorem returnChosen_bus (s : State) : (s.returnChosen).bus = s.bus := by
  unfold State.returnChosen; split <;> rfl
@[simp] theorem returnChosen_dmem (s : State) : (s.returnChosen).dmem = s.dmem := by
  unfold State.returnChosen; split <;> rfl
@[simp] theorem returnChosen_imem (s : State) : (s.returnChosen).imem = s.imem := by
  unfold State.returnChosen; split <;> rfl
@[simp] theorem returnChosen_inputs (s : State) : (s.returnChosen).inputs = s.inputs := by
  unfold State.returnChosen; split <;> rfl
@[simp] theorem returnChosen_dbi (s : State) : (s.returnChosen).dbi = s.dbi := by
  unfold State.returnChosen; split <;> rfl
@[simp] theorem returnChosen_params (s : State) : (s.returnChosen).params = s.params := by
  unfold State.returnChosen; split <;> rfl

/-! `reportChosen` -/

@[simp] theorem reportChosen_gprs (s : State) : (s.reportChosen).gprs = s.gprs := by
  unfold State.reportChosen; split <;> rfl
@[simp] theorem reportChosen_lc (s : State) : (s.reportChosen).lc = s.lc := by
  unfold State.reportChosen; split <;> rfl
@[simp] theorem reportChosen_cc (s : State) : (s.reportChosen).cc = s.cc := by
  unfold State.reportChosen; split <;> rfl
@[simp] theorem reportChosen_cs (s : State) : (s.reportChosen).cs = s.cs := by
  unfold State.reportChosen; split <;> rfl
@[simp] theorem reportChosen_ep (s : State) : (s.reportChosen).ep = s.ep := by
  unfold State.reportChosen; split <;> rfl
@[simp] theorem reportChosen_ta (s : State) : (s.reportChosen).ta = s.ta := by
  unfold State.reportChosen; split <;> rfl
@[simp] theorem reportChosen_sa (s : State) : (s.reportChosen).sa = s.sa := by
  unfold State.reportChosen; split <;> rfl
@[simp] theorem reportChosen_ia (s : State) : (s.reportChosen).ia = s.ia := by
  unfold State.reportChosen; split <;> rfl
@[simp] theorem reportChosen_hcc (s : State) : (s.reportChosen).hcc = s.hcc := by
  unfold State.reportChosen; split <;> rfl
@[simp] theorem reportChosen_hccSaved (s : State) : (s.reportChosen).hccSaved = s.hccSaved := by
  unfold State.reportChosen; split <;> rfl
@[simp] theorem reportChosen_pc (s : State) : (s.reportChosen).pc = s.pc := by
  unfold State.reportChosen; split <;> rfl
@[simp] theorem reportChosen_stopped (s : State) : (s.reportChosen).stopped = s.stopped := by
  unfold State.reportChosen; split <;> rfl
@[simp] theorem reportChosen_strqSeen (s : State) : (s.reportChosen).strqSeen = s.strqSeen := by
  unfold State.reportChosen; split <;> rfl
@[simp] theorem reportChosen_lia (s : State) : (s.reportChosen).lia = s.lia := by
  unfold State.reportChosen; split <;> rfl
@[simp] theorem reportChosen_dbo (s : State) : (s.reportChosen).dbo = s.dbo := by
  unfold State.reportChosen; split <;> rfl
@[simp] theorem reportChosen_iack (s : State) : (s.reportChosen).iack = s.iack := by
  unfold State.reportChosen; split <;> rfl
@[simp] theorem reportChosen_bus (s : State) : (s.reportChosen).bus = s.bus := by
  unfold State.reportChosen; split <;> rfl
@[simp] theorem reportChosen_dmem (s : State) : (s.reportChosen).dmem = s.dmem := by
  unfold State.reportChosen; split <;> rfl
@[simp] theorem reportChosen_imem (s : State) : (s.reportChosen).imem = s.imem := by
  unfold State.reportChosen; split <;> rfl
@[simp] theorem reportChosen_inputs (s : State) : (s.reportChosen).inputs = s.inputs := by
  unfold State.reportChosen; split <;> rfl
@[simp] theorem reportChosen_dbi (s : State) : (s.reportChosen).dbi = s.dbi := by
  unfold State.reportChosen; split <;> rfl
@[simp] theorem reportChosen_params (s : State) : (s.reportChosen).params = s.params := by
  unfold State.reportChosen; split <;> rfl

/-! `flagsRestored` -/

@[simp] theorem flagsRestored_gprs (s : State) : (s.flagsRestored).gprs = s.gprs := by
  unfold State.flagsRestored; split <;> rfl
@[simp] theorem flagsRestored_lc (s : State) : (s.flagsRestored).lc = s.lc := by
  unfold State.flagsRestored; split <;> rfl
@[simp] theorem flagsRestored_cc (s : State) : (s.flagsRestored).cc = s.cc := by
  unfold State.flagsRestored; split <;> rfl
@[simp] theorem flagsRestored_cs (s : State) : (s.flagsRestored).cs = s.cs := by
  unfold State.flagsRestored; split <;> rfl
@[simp] theorem flagsRestored_ep (s : State) : (s.flagsRestored).ep = s.ep := by
  unfold State.flagsRestored; split <;> rfl
@[simp] theorem flagsRestored_ta (s : State) : (s.flagsRestored).ta = s.ta := by
  unfold State.flagsRestored; split <;> rfl
@[simp] theorem flagsRestored_sa (s : State) : (s.flagsRestored).sa = s.sa := by
  unfold State.flagsRestored; split <;> rfl
@[simp] theorem flagsRestored_ia (s : State) : (s.flagsRestored).ia = s.ia := by
  unfold State.flagsRestored; split <;> rfl
@[simp] theorem flagsRestored_hcc (s : State) : (s.flagsRestored).hcc = s.hcc := by
  unfold State.flagsRestored; split <;> rfl
@[simp] theorem flagsRestored_hccSaved (s : State) : (s.flagsRestored).hccSaved = s.hccSaved := by
  unfold State.flagsRestored; split <;> rfl
@[simp] theorem flagsRestored_pc (s : State) : (s.flagsRestored).pc = s.pc := by
  unfold State.flagsRestored; split <;> rfl
@[simp] theorem flagsRestored_stopped (s : State) : (s.flagsRestored).stopped = s.stopped := by
  unfold State.flagsRestored; split <;> rfl
@[simp] theorem flagsRestored_strqSeen (s : State) : (s.flagsRestored).strqSeen = s.strqSeen := by
  unfold State.flagsRestored; split <;> rfl
@[simp] theorem flagsRestored_lia (s : State) : (s.flagsRestored).lia = s.lia := by
  unfold State.flagsRestored; split <;> rfl
@[simp] theorem flagsRestored_dbo (s : State) : (s.flagsRestored).dbo = s.dbo := by
  unfold State.flagsRestored; split <;> rfl
@[simp] theorem flagsRestored_iack (s : State) : (s.flagsRestored).iack = s.iack := by
  unfold State.flagsRestored; split <;> rfl
@[simp] theorem flagsRestored_bus (s : State) : (s.flagsRestored).bus = s.bus := by
  unfold State.flagsRestored; split <;> rfl
@[simp] theorem flagsRestored_dmem (s : State) : (s.flagsRestored).dmem = s.dmem := by
  unfold State.flagsRestored; split <;> rfl
@[simp] theorem flagsRestored_imem (s : State) : (s.flagsRestored).imem = s.imem := by
  unfold State.flagsRestored; split <;> rfl
@[simp] theorem flagsRestored_inputs (s : State) : (s.flagsRestored).inputs = s.inputs := by
  unfold State.flagsRestored; split <;> rfl
@[simp] theorem flagsRestored_dbi (s : State) : (s.flagsRestored).dbi = s.dbi := by
  unfold State.flagsRestored; split <;> rfl
@[simp] theorem flagsRestored_params (s : State) : (s.flagsRestored).params = s.params := by
  unfold State.flagsRestored; split <;> rfl

/-! `writeReg` -/

@[simp] theorem writeReg_hcc (s : State) (r : Reg) (v : Word) : (s.writeReg r v).hcc = s.hcc := by
  cases r <;> rfl
@[simp] theorem writeReg_hccSaved (s : State) (r : Reg) (v : Word) : (s.writeReg r v).hccSaved = s.hccSaved := by
  cases r <;> rfl
@[simp] theorem writeReg_pc (s : State) (r : Reg) (v : Word) : (s.writeReg r v).pc = s.pc := by
  cases r <;> rfl
@[simp] theorem writeReg_stopped (s : State) (r : Reg) (v : Word) : (s.writeReg r v).stopped = s.stopped := by
  cases r <;> rfl
@[simp] theorem writeReg_strqSeen (s : State) (r : Reg) (v : Word) : (s.writeReg r v).strqSeen = s.strqSeen := by
  cases r <;> rfl
@[simp] theorem writeReg_lia (s : State) (r : Reg) (v : Word) : (s.writeReg r v).lia = s.lia := by
  cases r <;> rfl
@[simp] theorem writeReg_dbo (s : State) (r : Reg) (v : Word) : (s.writeReg r v).dbo = s.dbo := by
  cases r <;> rfl
@[simp] theorem writeReg_iack (s : State) (r : Reg) (v : Word) : (s.writeReg r v).iack = s.iack := by
  cases r <;> rfl
@[simp] theorem writeReg_bus (s : State) (r : Reg) (v : Word) : (s.writeReg r v).bus = s.bus := by
  cases r <;> rfl
@[simp] theorem writeReg_dmem (s : State) (r : Reg) (v : Word) : (s.writeReg r v).dmem = s.dmem := by
  cases r <;> rfl
@[simp] theorem writeReg_imem (s : State) (r : Reg) (v : Word) : (s.writeReg r v).imem = s.imem := by
  cases r <;> rfl
@[simp] theorem writeReg_inputs (s : State) (r : Reg) (v : Word) : (s.writeReg r v).inputs = s.inputs := by
  cases r <;> rfl
@[simp] theorem writeReg_dbi (s : State) (r : Reg) (v : Word) : (s.writeReg r v).dbi = s.dbi := by
  cases r <;> rfl
@[simp] theorem writeReg_draws (s : State) (r : Reg) (v : Word) : (s.writeReg r v).draws = s.draws := by
  cases r <;> rfl
@[simp] theorem writeReg_params (s : State) (r : Reg) (v : Word) : (s.writeReg r v).params = s.params := by
  cases r <;> rfl

/-! `link` -/

@[simp] theorem link_gprs (s : State) : (s.link).gprs = s.gprs := rfl
@[simp] theorem link_lc (s : State) : (s.link).lc = s.lc := rfl
@[simp] theorem link_cc (s : State) : (s.link).cc = s.cc := rfl
@[simp] theorem link_cs (s : State) : (s.link).cs = s.cs := rfl
@[simp] theorem link_ep (s : State) : (s.link).ep = s.ep := rfl
@[simp] theorem link_ta (s : State) : (s.link).ta = s.ta := rfl
@[simp] theorem link_sa (s : State) : (s.link).sa = linkBits (s.pc + 4#32) := rfl
@[simp] theorem link_ia (s : State) : (s.link).ia = s.ia := rfl
@[simp] theorem link_hcc (s : State) : (s.link).hcc = s.hcc := rfl
@[simp] theorem link_hccSaved (s : State) : (s.link).hccSaved = s.hccSaved := rfl
@[simp] theorem link_pc (s : State) : (s.link).pc = s.pc := rfl
@[simp] theorem link_stopped (s : State) : (s.link).stopped = s.stopped := rfl
@[simp] theorem link_strqSeen (s : State) : (s.link).strqSeen = s.strqSeen := rfl
@[simp] theorem link_lia (s : State) : (s.link).lia = s.lia := rfl
@[simp] theorem link_dbo (s : State) : (s.link).dbo = s.dbo := rfl
@[simp] theorem link_iack (s : State) : (s.link).iack = s.iack := rfl
@[simp] theorem link_bus (s : State) : (s.link).bus = s.bus := rfl
@[simp] theorem link_dmem (s : State) : (s.link).dmem = s.dmem := rfl
@[simp] theorem link_imem (s : State) : (s.link).imem = s.imem := rfl
@[simp] theorem link_inputs (s : State) : (s.link).inputs = s.inputs := rfl
@[simp] theorem link_dbi (s : State) : (s.link).dbi = s.dbi := rfl
@[simp] theorem link_draws (s : State) : (s.link).draws = s.draws := rfl
@[simp] theorem link_params (s : State) : (s.link).params = s.params := rfl

/-! `leaveInterrupt` -/

@[simp] theorem leaveInterrupt_gprs (s : State) : (s.leaveInterrupt).gprs = s.gprs := by
  simp [State.leaveInterrupt]
@[simp] theorem leaveInterrupt_lc (s : State) : (s.leaveInterrupt).lc = s.lc := by
  simp [State.leaveInterrupt]
@[simp] theorem leaveInterrupt_cc (s : State) : (s.leaveInterrupt).cc = s.savedFlags := rfl
@[simp] theorem leaveInterrupt_cs (s : State) : (s.leaveInterrupt).cs = { s.cs with ir := false } := rfl
@[simp] theorem leaveInterrupt_ep (s : State) : (s.leaveInterrupt).ep = s.ep := by
  simp [State.leaveInterrupt]
@[simp] theorem leaveInterrupt_ta (s : State) : (s.leaveInterrupt).ta = s.ta := by
  simp [State.leaveInterrupt]
@[simp] theorem leaveInterrupt_sa (s : State) : (s.leaveInterrupt).sa = s.sa := by
  simp [State.leaveInterrupt]
@[simp] theorem leaveInterrupt_ia (s : State) : (s.leaveInterrupt).ia = s.ia := by
  simp [State.leaveInterrupt]
@[simp] theorem leaveInterrupt_hcc (s : State) : (s.leaveInterrupt).hcc = s.hcc := by
  simp [State.leaveInterrupt]
@[simp] theorem leaveInterrupt_hccSaved (s : State) : (s.leaveInterrupt).hccSaved = s.hccSaved := by
  simp [State.leaveInterrupt]
@[simp] theorem leaveInterrupt_pc (s : State) : (s.leaveInterrupt).pc = linkWord s.ia := rfl
@[simp] theorem leaveInterrupt_stopped (s : State) : (s.leaveInterrupt).stopped = s.stopped := by
  simp [State.leaveInterrupt]
@[simp] theorem leaveInterrupt_strqSeen (s : State) : (s.leaveInterrupt).strqSeen = s.strqSeen := by
  simp [State.leaveInterrupt]
@[simp] theorem leaveInterrupt_lia (s : State) : (s.leaveInterrupt).lia = s.lia := by
  simp [State.leaveInterrupt]
@[simp] theorem leaveInterrupt_dbo (s : State) : (s.leaveInterrupt).dbo = s.dbo := by
  simp [State.leaveInterrupt]
@[simp] theorem leaveInterrupt_iack (s : State) : (s.leaveInterrupt).iack = s.iack := by
  simp [State.leaveInterrupt]
@[simp] theorem leaveInterrupt_bus (s : State) : (s.leaveInterrupt).bus = s.bus := by
  simp [State.leaveInterrupt]
@[simp] theorem leaveInterrupt_dmem (s : State) : (s.leaveInterrupt).dmem = s.dmem := by
  simp [State.leaveInterrupt]
@[simp] theorem leaveInterrupt_imem (s : State) : (s.leaveInterrupt).imem = s.imem := by
  simp [State.leaveInterrupt]
@[simp] theorem leaveInterrupt_inputs (s : State) : (s.leaveInterrupt).inputs = s.inputs := by
  simp [State.leaveInterrupt]
@[simp] theorem leaveInterrupt_dbi (s : State) : (s.leaveInterrupt).dbi = s.dbi := by
  simp [State.leaveInterrupt]
@[simp] theorem leaveInterrupt_params (s : State) : (s.leaveInterrupt).params = s.params := by
  simp [State.leaveInterrupt]

/-! `poke` -/

@[simp] theorem poke_gprs (s : State) (p : Poke) : (s.poke p).gprs = s.gprs := by
  unfold State.poke; split <;> rfl
@[simp] theorem poke_lc (s : State) (p : Poke) : (s.poke p).lc = s.lc := by
  unfold State.poke; split <;> rfl
@[simp] theorem poke_cc (s : State) (p : Poke) : (s.poke p).cc = s.cc := by
  unfold State.poke; split <;> rfl
@[simp] theorem poke_cs (s : State) (p : Poke) : (s.poke p).cs = s.cs := by
  unfold State.poke; split <;> rfl
@[simp] theorem poke_ep (s : State) (p : Poke) : (s.poke p).ep = s.ep := by
  unfold State.poke; split <;> rfl
@[simp] theorem poke_ta (s : State) (p : Poke) : (s.poke p).ta = s.ta := by
  unfold State.poke; split <;> rfl
@[simp] theorem poke_sa (s : State) (p : Poke) : (s.poke p).sa = s.sa := by
  unfold State.poke; split <;> rfl
@[simp] theorem poke_ia (s : State) (p : Poke) : (s.poke p).ia = s.ia := by
  unfold State.poke; split <;> rfl
@[simp] theorem poke_hcc (s : State) (p : Poke) : (s.poke p).hcc = s.hcc := by
  unfold State.poke; split <;> rfl
@[simp] theorem poke_hccSaved (s : State) (p : Poke) : (s.poke p).hccSaved = s.hccSaved := by
  unfold State.poke; split <;> rfl
@[simp] theorem poke_pc (s : State) (p : Poke) : (s.poke p).pc = s.pc := by
  unfold State.poke; split <;> rfl
@[simp] theorem poke_stopped (s : State) (p : Poke) : (s.poke p).stopped = s.stopped := by
  unfold State.poke; split <;> rfl
@[simp] theorem poke_strqSeen (s : State) (p : Poke) : (s.poke p).strqSeen = s.strqSeen := by
  unfold State.poke; split <;> rfl
@[simp] theorem poke_lia (s : State) (p : Poke) : (s.poke p).lia = s.lia := by
  unfold State.poke; split <;> rfl
@[simp] theorem poke_dbo (s : State) (p : Poke) : (s.poke p).dbo = s.dbo := by
  unfold State.poke; split <;> rfl
@[simp] theorem poke_iack (s : State) (p : Poke) : (s.poke p).iack = s.iack := by
  unfold State.poke; split <;> rfl
@[simp] theorem poke_bus (s : State) (p : Poke) : (s.poke p).bus = s.bus := by
  unfold State.poke; split <;> rfl
@[simp] theorem poke_inputs (s : State) (p : Poke) : (s.poke p).inputs = s.inputs := by
  unfold State.poke; split <;> rfl
@[simp] theorem poke_dbi (s : State) (p : Poke) : (s.poke p).dbi = s.dbi := by
  unfold State.poke; split <;> rfl
@[simp] theorem poke_draws (s : State) (p : Poke) : (s.poke p).draws = s.draws := by
  unfold State.poke; split <;> rfl
@[simp] theorem poke_params (s : State) (p : Poke) : (s.poke p).params = s.params := by
  unfold State.poke; split <;> rfl

/-! `pokeAll` -/

@[simp] theorem pokeAll_gprs (s : State) (ps : List Poke) : (s.pokeAll ps).gprs = s.gprs := by
  unfold State.pokeAll
  induction ps generalizing s with
  | nil => rfl
  | cons p ps ih => exact (ih _).trans (poke_gprs s p)
@[simp] theorem pokeAll_lc (s : State) (ps : List Poke) : (s.pokeAll ps).lc = s.lc := by
  unfold State.pokeAll
  induction ps generalizing s with
  | nil => rfl
  | cons p ps ih => exact (ih _).trans (poke_lc s p)
@[simp] theorem pokeAll_cc (s : State) (ps : List Poke) : (s.pokeAll ps).cc = s.cc := by
  unfold State.pokeAll
  induction ps generalizing s with
  | nil => rfl
  | cons p ps ih => exact (ih _).trans (poke_cc s p)
@[simp] theorem pokeAll_cs (s : State) (ps : List Poke) : (s.pokeAll ps).cs = s.cs := by
  unfold State.pokeAll
  induction ps generalizing s with
  | nil => rfl
  | cons p ps ih => exact (ih _).trans (poke_cs s p)
@[simp] theorem pokeAll_ep (s : State) (ps : List Poke) : (s.pokeAll ps).ep = s.ep := by
  unfold State.pokeAll
  induction ps generalizing s with
  | nil => rfl
  | cons p ps ih => exact (ih _).trans (poke_ep s p)
@[simp] theorem pokeAll_ta (s : State) (ps : List Poke) : (s.pokeAll ps).ta = s.ta := by
  unfold State.pokeAll
  induction ps generalizing s with
  | nil => rfl
  | cons p ps ih => exact (ih _).trans (poke_ta s p)
@[simp] theorem pokeAll_sa (s : State) (ps : List Poke) : (s.pokeAll ps).sa = s.sa := by
  unfold State.pokeAll
  induction ps generalizing s with
  | nil => rfl
  | cons p ps ih => exact (ih _).trans (poke_sa s p)
@[simp] theorem pokeAll_ia (s : State) (ps : List Poke) : (s.pokeAll ps).ia = s.ia := by
  unfold State.pokeAll
  induction ps generalizing s with
  | nil => rfl
  | cons p ps ih => exact (ih _).trans (poke_ia s p)
@[simp] theorem pokeAll_hcc (s : State) (ps : List Poke) : (s.pokeAll ps).hcc = s.hcc := by
  unfold State.pokeAll
  induction ps generalizing s with
  | nil => rfl
  | cons p ps ih => exact (ih _).trans (poke_hcc s p)
@[simp] theorem pokeAll_hccSaved (s : State) (ps : List Poke) : (s.pokeAll ps).hccSaved = s.hccSaved := by
  unfold State.pokeAll
  induction ps generalizing s with
  | nil => rfl
  | cons p ps ih => exact (ih _).trans (poke_hccSaved s p)
@[simp] theorem pokeAll_pc (s : State) (ps : List Poke) : (s.pokeAll ps).pc = s.pc := by
  unfold State.pokeAll
  induction ps generalizing s with
  | nil => rfl
  | cons p ps ih => exact (ih _).trans (poke_pc s p)
@[simp] theorem pokeAll_stopped (s : State) (ps : List Poke) : (s.pokeAll ps).stopped = s.stopped := by
  unfold State.pokeAll
  induction ps generalizing s with
  | nil => rfl
  | cons p ps ih => exact (ih _).trans (poke_stopped s p)
@[simp] theorem pokeAll_strqSeen (s : State) (ps : List Poke) : (s.pokeAll ps).strqSeen = s.strqSeen := by
  unfold State.pokeAll
  induction ps generalizing s with
  | nil => rfl
  | cons p ps ih => exact (ih _).trans (poke_strqSeen s p)
@[simp] theorem pokeAll_lia (s : State) (ps : List Poke) : (s.pokeAll ps).lia = s.lia := by
  unfold State.pokeAll
  induction ps generalizing s with
  | nil => rfl
  | cons p ps ih => exact (ih _).trans (poke_lia s p)
@[simp] theorem pokeAll_dbo (s : State) (ps : List Poke) : (s.pokeAll ps).dbo = s.dbo := by
  unfold State.pokeAll
  induction ps generalizing s with
  | nil => rfl
  | cons p ps ih => exact (ih _).trans (poke_dbo s p)
@[simp] theorem pokeAll_iack (s : State) (ps : List Poke) : (s.pokeAll ps).iack = s.iack := by
  unfold State.pokeAll
  induction ps generalizing s with
  | nil => rfl
  | cons p ps ih => exact (ih _).trans (poke_iack s p)
@[simp] theorem pokeAll_bus (s : State) (ps : List Poke) : (s.pokeAll ps).bus = s.bus := by
  unfold State.pokeAll
  induction ps generalizing s with
  | nil => rfl
  | cons p ps ih => exact (ih _).trans (poke_bus s p)
@[simp] theorem pokeAll_inputs (s : State) (ps : List Poke) : (s.pokeAll ps).inputs = s.inputs := by
  unfold State.pokeAll
  induction ps generalizing s with
  | nil => rfl
  | cons p ps ih => exact (ih _).trans (poke_inputs s p)
@[simp] theorem pokeAll_dbi (s : State) (ps : List Poke) : (s.pokeAll ps).dbi = s.dbi := by
  unfold State.pokeAll
  induction ps generalizing s with
  | nil => rfl
  | cons p ps ih => exact (ih _).trans (poke_dbi s p)
@[simp] theorem pokeAll_draws (s : State) (ps : List Poke) : (s.pokeAll ps).draws = s.draws := by
  unfold State.pokeAll
  induction ps generalizing s with
  | nil => rfl
  | cons p ps ih => exact (ih _).trans (poke_draws s p)
@[simp] theorem pokeAll_params (s : State) (ps : List Poke) : (s.pokeAll ps).params = s.params := by
  unfold State.pokeAll
  induction ps generalizing s with
  | nil => rfl
  | cons p ps ih => exact (ih _).trans (poke_params s p)

/-! `applyUpdate` -/

@[simp] theorem applyUpdate_hcc (s : State) (u : Option (Reg × Word)) : (s.applyUpdate u).hcc = s.hcc := by
  rcases u with _ | ⟨r, v⟩
  · rfl
  · exact writeReg_hcc s r v
@[simp] theorem applyUpdate_hccSaved (s : State) (u : Option (Reg × Word)) : (s.applyUpdate u).hccSaved = s.hccSaved := by
  rcases u with _ | ⟨r, v⟩
  · rfl
  · exact writeReg_hccSaved s r v
@[simp] theorem applyUpdate_pc (s : State) (u : Option (Reg × Word)) : (s.applyUpdate u).pc = s.pc := by
  rcases u with _ | ⟨r, v⟩
  · rfl
  · exact writeReg_pc s r v
@[simp] theorem applyUpdate_stopped (s : State) (u : Option (Reg × Word)) : (s.applyUpdate u).stopped = s.stopped := by
  rcases u with _ | ⟨r, v⟩
  · rfl
  · exact writeReg_stopped s r v
@[simp] theorem applyUpdate_strqSeen (s : State) (u : Option (Reg × Word)) : (s.applyUpdate u).strqSeen = s.strqSeen := by
  rcases u with _ | ⟨r, v⟩
  · rfl
  · exact writeReg_strqSeen s r v
@[simp] theorem applyUpdate_lia (s : State) (u : Option (Reg × Word)) : (s.applyUpdate u).lia = s.lia := by
  rcases u with _ | ⟨r, v⟩
  · rfl
  · exact writeReg_lia s r v
@[simp] theorem applyUpdate_dbo (s : State) (u : Option (Reg × Word)) : (s.applyUpdate u).dbo = s.dbo := by
  rcases u with _ | ⟨r, v⟩
  · rfl
  · exact writeReg_dbo s r v
@[simp] theorem applyUpdate_iack (s : State) (u : Option (Reg × Word)) : (s.applyUpdate u).iack = s.iack := by
  rcases u with _ | ⟨r, v⟩
  · rfl
  · exact writeReg_iack s r v
@[simp] theorem applyUpdate_bus (s : State) (u : Option (Reg × Word)) : (s.applyUpdate u).bus = s.bus := by
  rcases u with _ | ⟨r, v⟩
  · rfl
  · exact writeReg_bus s r v
@[simp] theorem applyUpdate_dmem (s : State) (u : Option (Reg × Word)) : (s.applyUpdate u).dmem = s.dmem := by
  rcases u with _ | ⟨r, v⟩
  · rfl
  · exact writeReg_dmem s r v
@[simp] theorem applyUpdate_imem (s : State) (u : Option (Reg × Word)) : (s.applyUpdate u).imem = s.imem := by
  rcases u with _ | ⟨r, v⟩
  · rfl
  · exact writeReg_imem s r v
@[simp] theorem applyUpdate_inputs (s : State) (u : Option (Reg × Word)) : (s.applyUpdate u).inputs = s.inputs := by
  rcases u with _ | ⟨r, v⟩
  · rfl
  · exact writeReg_inputs s r v
@[simp] theorem applyUpdate_dbi (s : State) (u : Option (Reg × Word)) : (s.applyUpdate u).dbi = s.dbi := by
  rcases u with _ | ⟨r, v⟩
  · rfl
  · exact writeReg_dbi s r v
@[simp] theorem applyUpdate_draws (s : State) (u : Option (Reg × Word)) : (s.applyUpdate u).draws = s.draws := by
  rcases u with _ | ⟨r, v⟩
  · rfl
  · exact writeReg_draws s r v
@[simp] theorem applyUpdate_params (s : State) (u : Option (Reg × Word)) : (s.applyUpdate u).params = s.params := by
  rcases u with _ | ⟨r, v⟩
  · rfl
  · exact writeReg_params s r v

/-! `storeByte` -/

@[simp] theorem storeByte_gprs (s : State) (a : Word) (b : Byte) : (s.storeByte a b).gprs = s.gprs := by
  unfold State.storeByte; split <;> rfl
@[simp] theorem storeByte_lc (s : State) (a : Word) (b : Byte) : (s.storeByte a b).lc = s.lc := by
  unfold State.storeByte; split <;> rfl
@[simp] theorem storeByte_cc (s : State) (a : Word) (b : Byte) : (s.storeByte a b).cc = s.cc := by
  unfold State.storeByte; split <;> rfl
@[simp] theorem storeByte_cs (s : State) (a : Word) (b : Byte) : (s.storeByte a b).cs = s.cs := by
  unfold State.storeByte; split <;> rfl
@[simp] theorem storeByte_ep (s : State) (a : Word) (b : Byte) : (s.storeByte a b).ep = s.ep := by
  unfold State.storeByte; split <;> rfl
@[simp] theorem storeByte_ta (s : State) (a : Word) (b : Byte) : (s.storeByte a b).ta = s.ta := by
  unfold State.storeByte; split <;> rfl
@[simp] theorem storeByte_sa (s : State) (a : Word) (b : Byte) : (s.storeByte a b).sa = s.sa := by
  unfold State.storeByte; split <;> rfl
@[simp] theorem storeByte_ia (s : State) (a : Word) (b : Byte) : (s.storeByte a b).ia = s.ia := by
  unfold State.storeByte; split <;> rfl
@[simp] theorem storeByte_hcc (s : State) (a : Word) (b : Byte) : (s.storeByte a b).hcc = s.hcc := by
  unfold State.storeByte; split <;> rfl
@[simp] theorem storeByte_hccSaved (s : State) (a : Word) (b : Byte) : (s.storeByte a b).hccSaved = s.hccSaved := by
  unfold State.storeByte; split <;> rfl
@[simp] theorem storeByte_pc (s : State) (a : Word) (b : Byte) : (s.storeByte a b).pc = s.pc := by
  unfold State.storeByte; split <;> rfl
@[simp] theorem storeByte_stopped (s : State) (a : Word) (b : Byte) : (s.storeByte a b).stopped = s.stopped := by
  unfold State.storeByte; split <;> rfl
@[simp] theorem storeByte_strqSeen (s : State) (a : Word) (b : Byte) : (s.storeByte a b).strqSeen = s.strqSeen := by
  unfold State.storeByte; split <;> rfl
@[simp] theorem storeByte_lia (s : State) (a : Word) (b : Byte) : (s.storeByte a b).lia = s.lia := by
  unfold State.storeByte; split <;> rfl
@[simp] theorem storeByte_dbo (s : State) (a : Word) (b : Byte) : (s.storeByte a b).dbo = s.dbo := by
  unfold State.storeByte; split <;> rfl
@[simp] theorem storeByte_iack (s : State) (a : Word) (b : Byte) : (s.storeByte a b).iack = s.iack := by
  unfold State.storeByte; split <;> rfl
@[simp] theorem storeByte_bus (s : State) (a : Word) (b : Byte) : (s.storeByte a b).bus = s.bus := by
  unfold State.storeByte; split <;> rfl
@[simp] theorem storeByte_inputs (s : State) (a : Word) (b : Byte) : (s.storeByte a b).inputs = s.inputs := by
  unfold State.storeByte; split <;> rfl
@[simp] theorem storeByte_dbi (s : State) (a : Word) (b : Byte) : (s.storeByte a b).dbi = s.dbi := by
  unfold State.storeByte; split <;> rfl
@[simp] theorem storeByte_draws (s : State) (a : Word) (b : Byte) : (s.storeByte a b).draws = s.draws := by
  unfold State.storeByte; split <;> rfl
@[simp] theorem storeByte_params (s : State) (a : Word) (b : Byte) : (s.storeByte a b).params = s.params := by
  unfold State.storeByte; split <;> rfl

/-! `putByte` -/

@[simp] theorem putByte_gprs (s : State) (a : Word) (b : Byte) : (s.putByte a b).gprs = s.gprs := by
  unfold State.putByte; split <;> simp
@[simp] theorem putByte_lc (s : State) (a : Word) (b : Byte) : (s.putByte a b).lc = s.lc := by
  unfold State.putByte; split <;> simp
@[simp] theorem putByte_cc (s : State) (a : Word) (b : Byte) : (s.putByte a b).cc = s.cc := by
  unfold State.putByte; split <;> simp
@[simp] theorem putByte_cs (s : State) (a : Word) (b : Byte) : (s.putByte a b).cs = s.cs := by
  unfold State.putByte; split <;> simp
@[simp] theorem putByte_ep (s : State) (a : Word) (b : Byte) : (s.putByte a b).ep = s.ep := by
  unfold State.putByte; split <;> simp
@[simp] theorem putByte_ta (s : State) (a : Word) (b : Byte) : (s.putByte a b).ta = s.ta := by
  unfold State.putByte; split <;> simp
@[simp] theorem putByte_sa (s : State) (a : Word) (b : Byte) : (s.putByte a b).sa = s.sa := by
  unfold State.putByte; split <;> simp
@[simp] theorem putByte_ia (s : State) (a : Word) (b : Byte) : (s.putByte a b).ia = s.ia := by
  unfold State.putByte; split <;> simp
@[simp] theorem putByte_hcc (s : State) (a : Word) (b : Byte) : (s.putByte a b).hcc = s.hcc := by
  unfold State.putByte; split <;> simp
@[simp] theorem putByte_hccSaved (s : State) (a : Word) (b : Byte) : (s.putByte a b).hccSaved = s.hccSaved := by
  unfold State.putByte; split <;> simp
@[simp] theorem putByte_pc (s : State) (a : Word) (b : Byte) : (s.putByte a b).pc = s.pc := by
  unfold State.putByte; split <;> simp
@[simp] theorem putByte_stopped (s : State) (a : Word) (b : Byte) : (s.putByte a b).stopped = s.stopped := by
  unfold State.putByte; split <;> simp
@[simp] theorem putByte_strqSeen (s : State) (a : Word) (b : Byte) : (s.putByte a b).strqSeen = s.strqSeen := by
  unfold State.putByte; split <;> simp
@[simp] theorem putByte_lia (s : State) (a : Word) (b : Byte) : (s.putByte a b).lia = s.lia := by
  unfold State.putByte; split <;> simp
@[simp] theorem putByte_dbo (s : State) (a : Word) (b : Byte) : (s.putByte a b).dbo = s.dbo := by
  unfold State.putByte; split <;> simp
@[simp] theorem putByte_iack (s : State) (a : Word) (b : Byte) : (s.putByte a b).iack = s.iack := by
  unfold State.putByte; split <;> simp
@[simp] theorem putByte_bus (s : State) (a : Word) (b : Byte) : (s.putByte a b).bus = s.bus := by
  unfold State.putByte; split <;> simp
@[simp] theorem putByte_inputs (s : State) (a : Word) (b : Byte) : (s.putByte a b).inputs = s.inputs := by
  unfold State.putByte; split <;> simp
@[simp] theorem putByte_dbi (s : State) (a : Word) (b : Byte) : (s.putByte a b).dbi = s.dbi := by
  unfold State.putByte; split <;> simp
@[simp] theorem putByte_draws (s : State) (a : Word) (b : Byte) : (s.putByte a b).draws = s.draws := by
  unfold State.putByte; split <;> simp
@[simp] theorem putByte_params (s : State) (a : Word) (b : Byte) : (s.putByte a b).params = s.params := by
  unfold State.putByte; split <;> simp

/-! `memWrite` -/

@[simp] theorem memWrite_gprs (s : State) (a : Word) (z : Size) (v : Word) : (s.memWrite a z v).gprs = s.gprs := by
  cases z <;> simp [State.memWrite]
@[simp] theorem memWrite_lc (s : State) (a : Word) (z : Size) (v : Word) : (s.memWrite a z v).lc = s.lc := by
  cases z <;> simp [State.memWrite]
@[simp] theorem memWrite_cc (s : State) (a : Word) (z : Size) (v : Word) : (s.memWrite a z v).cc = s.cc := by
  cases z <;> simp [State.memWrite]
@[simp] theorem memWrite_cs (s : State) (a : Word) (z : Size) (v : Word) : (s.memWrite a z v).cs = s.cs := by
  cases z <;> simp [State.memWrite]
@[simp] theorem memWrite_ep (s : State) (a : Word) (z : Size) (v : Word) : (s.memWrite a z v).ep = s.ep := by
  cases z <;> simp [State.memWrite]
@[simp] theorem memWrite_ta (s : State) (a : Word) (z : Size) (v : Word) : (s.memWrite a z v).ta = s.ta := by
  cases z <;> simp [State.memWrite]
@[simp] theorem memWrite_sa (s : State) (a : Word) (z : Size) (v : Word) : (s.memWrite a z v).sa = s.sa := by
  cases z <;> simp [State.memWrite]
@[simp] theorem memWrite_ia (s : State) (a : Word) (z : Size) (v : Word) : (s.memWrite a z v).ia = s.ia := by
  cases z <;> simp [State.memWrite]
@[simp] theorem memWrite_hcc (s : State) (a : Word) (z : Size) (v : Word) : (s.memWrite a z v).hcc = s.hcc := by
  cases z <;> simp [State.memWrite]
@[simp] theorem memWrite_hccSaved (s : State) (a : Word) (z : Size) (v : Word) : (s.memWrite a z v).hccSaved = s.hccSaved := by
  cases z <;> simp [State.memWrite]
@[simp] theorem memWrite_pc (s : State) (a : Word) (z : Size) (v : Word) : (s.memWrite a z v).pc = s.pc := by
  cases z <;> simp [State.memWrite]
@[simp] theorem memWrite_stopped (s : State) (a : Word) (z : Size) (v : Word) : (s.memWrite a z v).stopped = s.stopped := by
  cases z <;> simp [State.memWrite]
@[simp] theorem memWrite_strqSeen (s : State) (a : Word) (z : Size) (v : Word) : (s.memWrite a z v).strqSeen = s.strqSeen := by
  cases z <;> simp [State.memWrite]
@[simp] theorem memWrite_lia (s : State) (a : Word) (z : Size) (v : Word) : (s.memWrite a z v).lia = s.lia := by
  cases z <;> simp [State.memWrite]
@[simp] theorem memWrite_dbo (s : State) (a : Word) (z : Size) (v : Word) : (s.memWrite a z v).dbo = s.dbo := by
  cases z <;> simp [State.memWrite]
@[simp] theorem memWrite_iack (s : State) (a : Word) (z : Size) (v : Word) : (s.memWrite a z v).iack = s.iack := by
  cases z <;> simp [State.memWrite]
@[simp] theorem memWrite_bus (s : State) (a : Word) (z : Size) (v : Word) : (s.memWrite a z v).bus = s.bus := by
  cases z <;> simp [State.memWrite]
@[simp] theorem memWrite_inputs (s : State) (a : Word) (z : Size) (v : Word) : (s.memWrite a z v).inputs = s.inputs := by
  cases z <;> simp [State.memWrite]
@[simp] theorem memWrite_dbi (s : State) (a : Word) (z : Size) (v : Word) : (s.memWrite a z v).dbi = s.dbi := by
  cases z <;> simp [State.memWrite]
@[simp] theorem memWrite_draws (s : State) (a : Word) (z : Size) (v : Word) : (s.memWrite a z v).draws = s.draws := by
  cases z <;> simp [State.memWrite]
@[simp] theorem memWrite_params (s : State) (a : Word) (z : Size) (v : Word) : (s.memWrite a z v).params = s.params := by
  cases z <;> simp [State.memWrite]

end Sys2Proof.Machine
end

