-- ==== Sys2Proof/Laws/Memory.lean ====
section
/-! SUPPORT. The laws of memory: reading after writing, the canonical form, and what one byte of the data space is after a
write. -/

namespace Sys2Proof.Machine

/-! ### One memory -/

theorem Memory.lookup_consByte_other (j k : Nat) (b : Byte) (m : Memory) (h : j ≠ k) :
    Memory.lookup k (Memory.consByte j b m) = Memory.lookup k m := by
  unfold Memory.consByte; split <;> simp [Memory.lookup, h]

theorem Memory.lookup_store_other (j k : Nat) (b : Byte) (m : Memory) (h : j ≠ k) :
    Memory.lookup k (Memory.store j b m) = Memory.lookup k m := by
  induction m with
  | nil => exact Memory.lookup_consByte_other j k b [] h
  | cons p rest ih =>
    obtain ⟨i, c⟩ := p
    simp only [Memory.store]
    split
    · exact Memory.lookup_consByte_other j k b _ h
    · split
      · subst i; rw [Memory.lookup_consByte_other j k b _ h]; simp [Memory.lookup, h]
      · simp [Memory.lookup, ih]

/-- Nothing below the lower bound of a canonical list is listed. -/
theorem Memory.lookup_below (m : Memory) (lo k : Nat) (h : Memory.wfFrom lo m = true) (hk : k < lo) :
    Memory.lookup k m = Memory.unlisted := by
  induction m generalizing lo with
  | nil => rfl
  | cons p rest ih =>
    obtain ⟨i, c⟩ := p
    simp only [Memory.wfFrom, Bool.and_eq_true, decide_eq_true_eq] at h
    have : i ≠ k := by omega
    simp [Memory.lookup, this, ih (i + 1) h.2 (by omega)]

theorem Memory.lookup_consByte_self (k : Nat) (b : Byte) (m : Memory) (h : Memory.wfFrom (k + 1) m = true) :
    Memory.lookup k (Memory.consByte k b m) = b := by
  unfold Memory.consByte; split
  · rename_i e; rw [e]; exact Memory.lookup_below m _ k h (by omega)
  · simp [Memory.lookup]

theorem Memory.wfFrom_mono (m : Memory) (lo lo' : Nat) (h : Memory.wfFrom lo m = true) (hl : lo' ≤ lo) :
    Memory.wfFrom lo' m = true := by
  cases m with
  | nil => rfl
  | cons p rest =>
    obtain ⟨i, c⟩ := p
    simp only [Memory.wfFrom, Bool.and_eq_true, decide_eq_true_eq] at h ⊢
    exact ⟨⟨⟨by omega, h.1.1.2⟩, h.1.2⟩, h.2⟩

theorem Memory.lookup_store_self (k : Nat) (b : Byte) (m : Memory) (lo : Nat) (h : Memory.wfFrom lo m = true) :
    Memory.lookup k (Memory.store k b m) = b := by
  induction m generalizing lo with
  | nil => exact Memory.lookup_consByte_self k b [] rfl
  | cons p rest ih =>
    obtain ⟨i, c⟩ := p
    have h' := h
    simp only [Memory.wfFrom, Bool.and_eq_true, decide_eq_true_eq] at h'
    simp only [Memory.store]
    split
    · refine Memory.lookup_consByte_self k b _ ?_
      simp only [Memory.wfFrom, Bool.and_eq_true, decide_eq_true_eq]
      exact ⟨⟨⟨by omega, h'.1.1.2⟩, h'.1.2⟩, h'.2⟩
    · split
      · subst i; exact Memory.lookup_consByte_self k b _ h'.2
      · rename_i hne
        have : i ≠ k := fun e => hne e.symm
        simp [Memory.lookup, this, ih (i + 1) h'.2]

theorem Memory.wfFrom_consByte (k : Nat) (b : Byte) (m : Memory) (lo : Nat) (hk : lo ≤ k) (hb : k < 2 ^ 32)
    (h : Memory.wfFrom (k + 1) m = true) : Memory.wfFrom lo (Memory.consByte k b m) = true := by
  unfold Memory.consByte; split
  · exact Memory.wfFrom_mono m _ _ h (by omega)
  · simp only [Memory.wfFrom, Bool.and_eq_true, decide_eq_true_eq]
    exact ⟨⟨⟨hk, hb⟩, by assumption⟩, h⟩

theorem Memory.wfFrom_store (k : Nat) (b : Byte) (m : Memory) (lo : Nat) (hk : lo ≤ k) (hb : k < 2 ^ 32)
    (h : Memory.wfFrom lo m = true) : Memory.wfFrom lo (Memory.store k b m) = true := by
  induction m generalizing lo with
  | nil => exact Memory.wfFrom_consByte k b [] lo hk hb rfl
  | cons p rest ih =>
    obtain ⟨i, c⟩ := p
    have h' := h
    simp only [Memory.wfFrom, Bool.and_eq_true, decide_eq_true_eq] at h'
    simp only [Memory.store]
    split
    · refine Memory.wfFrom_consByte k b _ lo hk hb ?_
      simp only [Memory.wfFrom, Bool.and_eq_true, decide_eq_true_eq]
      exact ⟨⟨⟨by omega, h'.1.1.2⟩, h'.1.2⟩, h'.2⟩
    · split
      · subst i; exact Memory.wfFrom_consByte k b _ lo hk hb h'.2
      · simp only [Memory.wfFrom, Bool.and_eq_true, decide_eq_true_eq]
        exact ⟨⟨⟨h'.1.1.1, h'.1.1.2⟩, h'.1.2⟩, ih (i + 1) (by omega) h'.2⟩

/-- A write keeps the canonical form. -/
theorem Memory.write_wf (m : Memory) (a : Word) (b : Byte) (h : m.wf = true) : (m.write a b).wf = true :=
  Memory.wfFrom_store a.toNat b m 0 (by omega) a.isLt h

/-- Reading what has been written. -/
theorem Memory.read_write_self (m : Memory) (a : Word) (b : Byte) (h : m.wf = true) : (m.write a b).read a = b :=
  Memory.lookup_store_self a.toNat b m 0 h

/-- A write leaves every other byte alone. -/
theorem Memory.read_write_other (m : Memory) (a e : Word) (b : Byte) (h : a ≠ e) :
    (m.write a b).read e = m.read e :=
  Memory.lookup_store_other a.toNat e.toNat b m (fun c => h (BitVec.eq_of_toNat_eq c))

/-! ### One byte of the data space -/

/-- Where a data address leads depends on the parameters alone. -/
theorem State.codeAddr?_congr (s t : State) (h : t.params = s.params) (a : Word) : t.codeAddr? a = s.codeAddr? a := by
  unfold State.codeAddr?; rw [h]

@[simp] theorem State.codeAddr?_putByte (s : State) (a e : Word) (b : Byte) :
    (s.putByte a b).codeAddr? e = s.codeAddr? e := State.codeAddr?_congr _ _ (by simp) e

/-- A byte of the data space depends on the memories and the parameters alone. -/
theorem State.dataByte_congr (s t : State) (hd : t.dmem = s.dmem) (hi : t.imem = s.imem) (hp : t.params = s.params)
    (a : Word) : t.dataByte a = s.dataByte a := by
  unfold State.dataByte; rw [State.codeAddr?_congr s t hp a, hd, hi]

/-- Two data addresses that lead to the same instruction address are equal. -/
theorem State.codeAddr?_inj (s : State) (a e c : Word) (ha : s.codeAddr? a = some c) (he : s.codeAddr? e = some c) :
    a = e := by
  unfold State.codeAddr? at ha he
  cases hw : s.params.codeWindow with
  | none => simp [hw] at ha
  | some w =>
    simp only [hw, Option.ite_none_right_eq_some, Option.some.injEq] at ha he
    have := ha.2.trans he.2.symm
    bv_omega

/-- What stands behind a data address depends on the parameters alone. -/
theorem State.regionAt_congr (s t : State) (h : t.params = s.params) (a : Word) : t.regionAt a = s.regionAt a := by
  unfold State.regionAt; rw [State.codeAddr?_congr s t h a, h]

@[simp] theorem State.regionAt_putByte (s : State) (a e : Word) (b : Byte) :
    (s.putByte a b).regionAt e = s.regionAt e := State.regionAt_congr _ _ (by simp) e

/-- Outside devices a load reads what memory holds. -/
theorem State.readByte_memory (s : State) (a : Word) (h : s.regionAt a ≠ .device) : s.readByte a = s.dataByte a := by
  simp [State.readByte, h]

/-- What a load reads depends on the memories, the parameters and the counter of free values alone. -/
theorem State.readByte_congr (s t : State) (h : t.params = s.params) (hn : t.draws = s.draws) (a : Word)
    (hb : t.dataByte a = s.dataByte a) : t.readByte a = s.readByte a := by
  unfold State.readByte; rw [State.regionAt_congr s t h a, hn, hb]

theorem State.dataByte_storeByte_self (s : State) (a : Word) (b : Byte) (hd : s.dmem.wf = true) (hi : s.imem.wf = true) :
    (s.storeByte a b).dataByte a = b := by
  unfold State.dataByte
  rw [State.codeAddr?_congr s (s.storeByte a b) (by simp)]
  unfold State.storeByte
  split
  · exact Memory.read_write_self _ _ _ hi
  · exact Memory.read_write_self _ _ _ hd

theorem State.dataByte_storeByte_other (s : State) (a e : Word) (b : Byte) (h : a ≠ e) :
    (s.storeByte a b).dataByte e = s.dataByte e := by
  unfold State.dataByte
  rw [State.codeAddr?_congr s (s.storeByte a b) (by simp)]
  unfold State.storeByte
  cases ha : s.codeAddr? a <;> cases he : s.codeAddr? e <;> simp
  · exact Memory.read_write_other _ _ _ _ h
  · refine Memory.read_write_other _ _ _ _ fun c => h ?_
    exact State.codeAddr?_inj s a e _ ha (c ▸ he)

theorem State.storeByte_wf (s : State) (a : Word) (b : Byte) (hd : s.dmem.wf = true) (hi : s.imem.wf = true) :
    (s.storeByte a b).dmem.wf = true ∧ (s.storeByte a b).imem.wf = true := by
  unfold State.storeByte
  split
  · exact ⟨hd, Memory.write_wf _ _ _ hi⟩
  · exact ⟨Memory.write_wf _ _ _ hd, hi⟩

/-- What a write of one byte does: RAM takes the byte, everything else stays as it is. -/
theorem State.putByte_cases (s : State) (a : Word) (b : Byte) :
    (s.regionAt a = .ram ∧ s.putByte a b = s.storeByte a b) ∨ (s.regionAt a ≠ .ram ∧ s.putByte a b = s) := by
  unfold State.putByte
  split
  · exact .inl ⟨by assumption, rfl⟩
  · exact .inr ⟨by assumption, rfl⟩

theorem State.dataByte_putByte_self (s : State) (a : Word) (b : Byte) (hd : s.dmem.wf = true) (hi : s.imem.wf = true)
    (h : s.regionAt a = .ram) : (s.putByte a b).dataByte a = b := by
  rcases s.putByte_cases a b with ⟨-, e⟩ | ⟨n, -⟩
  · rw [e]; exact State.dataByte_storeByte_self s a b hd hi
  · exact absurd h n

theorem State.dataByte_putByte_other (s : State) (a e : Word) (b : Byte) (h : s.regionAt a = .ram → a ≠ e) :
    (s.putByte a b).dataByte e = s.dataByte e := by
  rcases s.putByte_cases a b with ⟨r, q⟩ | ⟨-, q⟩
  · rw [q]; exact State.dataByte_storeByte_other s a e b (h r)
  · rw [q]

/-- A write of the data space changes an instruction byte only through the code window, and only RAM. -/
theorem State.imem_putByte_other (s : State) (a c : Word) (b : Byte)
    (h : s.codeAddr? a = some c → s.regionAt a ≠ .ram) : (s.putByte a b).imem.read c = s.imem.read c := by
  rcases s.putByte_cases a b with ⟨r, q⟩ | ⟨-, q⟩
  · rw [q]
    unfold State.storeByte
    cases ha : s.codeAddr? a with
    | none => rfl
    | some d => exact Memory.read_write_other _ _ _ _ fun e => h (e ▸ ha) r
  · rw [q]

theorem State.putByte_wf (s : State) (a : Word) (b : Byte) (hd : s.dmem.wf = true) (hi : s.imem.wf = true) :
    (s.putByte a b).dmem.wf = true ∧ (s.putByte a b).imem.wf = true := by
  rcases s.putByte_cases a b with ⟨-, q⟩ | ⟨-, q⟩ <;> rw [q]
  · exact State.storeByte_wf s a b hd hi
  · exact ⟨hd, hi⟩

/-! ### One access -/

/-- An access writes its bytes one after the other, the lowest first. -/
theorem State.memWrite_eq_foldl (s : State) (eda : Word) (z : Size) (v : Word) :
    s.memWrite eda z v =
      (List.range z.bytes).foldl (fun t i => t.putByte (z.align eda + BitVec.ofNat 32 i) (byteOfWord v i)) s := by
  cases z <;> simp [State.memWrite, Size.bytes, List.range_succ]

/-- Writing bytes one after the other keeps the canonical form of both memories and the map. -/
theorem State.putBytes_keep (s : State) (a v : Word) (l : List Nat) (hd : s.dmem.wf = true) (hi : s.imem.wf = true) :
    let t := l.foldl (fun t i => t.putByte (a + BitVec.ofNat 32 i) (byteOfWord v i)) s
    t.dmem.wf = true ∧ t.imem.wf = true ∧ ∀ e, t.regionAt e = s.regionAt e := by
  induction l generalizing s with
  | nil => exact ⟨hd, hi, fun _ => rfl⟩
  | cons i l ih =>
    have h := State.putByte_wf s (a + BitVec.ofNat 32 i) (byteOfWord v i) hd hi
    obtain ⟨h1, h2, h3⟩ := ih _ h.1 h.2
    exact ⟨h1, h2, fun e => (h3 e).trans (State.regionAt_putByte s _ e _)⟩

/-- `memWrite` keeps the canonical form of both memories. -/
theorem State.memWrite_wf (s : State) (eda : Word) (z : Size) (v : Word) (hd : s.dmem.wf = true)
    (hi : s.imem.wf = true) : (s.memWrite eda z v).dmem.wf = true ∧ (s.memWrite eda z v).imem.wf = true := by
  rw [State.memWrite_eq_foldl]
  obtain ⟨h1, h2, -⟩ := s.putBytes_keep (z.align eda) v (List.range z.bytes) hd hi
  exact ⟨h1, h2⟩

theorem Size.mem_addresses (z : Size) (eda a : Word) :
    a ∈ z.addresses eda ↔ ∃ i, i < z.bytes ∧ z.align eda + BitVec.ofNat 32 i = a := by
  simp [Size.addresses]

/-- `memWrite` leaves every byte outside its own alone, and every byte that is not RAM. -/
theorem State.dataByte_memWrite_other (s : State) (eda : Word) (z : Size) (v a : Word)
    (h : s.regionAt a = .ram → a ∉ z.addresses eda) : (s.memWrite eda z v).dataByte a = s.dataByte a := by
  rw [State.memWrite_eq_foldl]
  have h' : ∀ i ∈ List.range z.bytes, s.regionAt (z.align eda + BitVec.ofNat 32 i) = .ram →
      z.align eda + BitVec.ofNat 32 i ≠ a := by
    intro i hi hr e
    exact h (e ▸ hr) ((Size.mem_addresses z eda a).2 ⟨i, List.mem_range.1 hi, e⟩)
  generalize List.range z.bytes = l at h'
  induction l generalizing s with
  | nil => rfl
  | cons i l ih =>
    rw [List.foldl_cons, ih _ (by simpa using h) fun j hj => by
      rw [State.regionAt_putByte]; exact h' j (List.mem_cons_of_mem _ hj)]
    exact State.dataByte_putByte_other s _ _ _ (h' i List.mem_cons_self)

/-- `memWrite` changes an instruction byte only through the code window, and only RAM. -/
theorem State.imem_memWrite_other (s : State) (eda : Word) (z : Size) (v c : Word)
    (h : ∀ a ∈ z.addresses eda, s.codeAddr? a = some c → s.regionAt a ≠ .ram) :
    (s.memWrite eda z v).imem.read c = s.imem.read c := by
  rw [State.memWrite_eq_foldl]
  have h' : ∀ i ∈ List.range z.bytes, s.codeAddr? (z.align eda + BitVec.ofNat 32 i) = some c →
      s.regionAt (z.align eda + BitVec.ofNat 32 i) ≠ .ram := by
    intro i hi
    exact h _ ((Size.mem_addresses z eda _).2 ⟨i, List.mem_range.1 hi, rfl⟩)
  generalize List.range z.bytes = l at h'
  induction l generalizing s with
  | nil => rfl
  | cons i l ih =>
    rw [List.foldl_cons, ih]
    · exact State.imem_putByte_other s _ _ _ (h' i List.mem_cons_self)
    · intro a ha; rw [State.codeAddr?_putByte, State.regionAt_putByte]; exact h a ha
    · intro j hj; rw [State.codeAddr?_putByte, State.regionAt_putByte]; exact h' j (List.mem_cons_of_mem _ hj)

/-- `memWrite` does nothing where no byte of the access is RAM. -/
theorem State.memWrite_outside_ram (s : State) (eda : Word) (z : Size) (v : Word)
    (h : ∀ a ∈ z.addresses eda, s.regionAt a ≠ .ram) : s.memWrite eda z v = s := by
  rw [State.memWrite_eq_foldl]
  have h' : ∀ i ∈ List.range z.bytes, s.regionAt (z.align eda + BitVec.ofNat 32 i) ≠ .ram := fun i hi =>
    h _ ((Size.mem_addresses z eda _).2 ⟨i, List.mem_range.1 hi, rfl⟩)
  generalize List.range z.bytes = l at h'
  induction l with
  | nil => rfl
  | cons i l ih =>
    rw [List.foldl_cons, State.putByte, if_neg (h' i List.mem_cons_self)]
    exact ih fun j hj => h' j (List.mem_cons_of_mem _ hj)

/-- `memWrite` leaves the bytes it writes in RAM. -/
theorem State.dataByte_memWrite_self (s : State) (eda : Word) (z : Size) (v : Word) (hd : s.dmem.wf = true)
    (hi : s.imem.wf = true) (i : Nat) (h : i < z.bytes) (hr : s.regionAt (z.align eda + BitVec.ofNat 32 i) = .ram) :
    (s.memWrite eda z v).dataByte (z.align eda + BitVec.ofNat 32 i) = byteOfWord v i := by
  rw [State.memWrite_eq_foldl]
  have hz : z.bytes ≤ 4 := by cases z <;> decide
  generalize z.bytes = n at h hz
  induction n with
  | zero => omega
  | succ n ih =>
    rw [List.range_succ, List.foldl_append, List.foldl_cons, List.foldl_nil]
    by_cases e : i = n
    · subst e
      obtain ⟨h1, h2, h3⟩ := s.putBytes_keep (z.align eda) v (List.range i) hd hi
      exact State.dataByte_putByte_self _ _ _ h1 h2 (by rw [h3, hr])
    · rw [State.dataByte_putByte_other, ih (by omega) (by omega)]
      intro _ c
      have hn : (BitVec.ofNat 32 n).toNat = n := by simp; omega
      have hi : (BitVec.ofNat 32 i).toNat = i := by simp; omega
      have : BitVec.ofNat 32 n = BitVec.ofNat 32 i := by bv_omega
      rw [this] at hn
      omega

/-- `memRead` depends on the bytes of the access alone. -/
theorem State.memRead_congr (s t : State) (eda : Word) (z : Size)
    (h : ∀ a ∈ z.addresses eda, t.readByte a = s.readByte a) : t.memRead eda z = s.memRead eda z := by
  cases z <;> simp [Size.addresses, Size.bytes, List.range_succ] at h <;> simp [State.memRead, h]

/-- The parameters decide alone, with the stopped state for stores, whether an access stops. -/
theorem State.accessStop_congr (s t : State) (hp : t.params = s.params) (hs : t.stopped = s.stopped) (write : Bool)
    (eda : Word) (z : Size) : t.accessStop write eda z = s.accessStop write eda z := by
  have : t.byteStop write = s.byteStop write := by
    funext a; unfold State.byteStop; rw [State.codeAddr?_congr s t hp a, hp, hs]
  unfold State.accessStop State.controllerTakes
  rw [this, hp]

/-- Where a store does not stop, a load does not stop. -/
theorem State.accessStop_load_of_store (s : State) (eda : Word) (z : Size) (h : s.accessStop true eda z = none) :
    s.accessStop false eda z = none := by
  unfold State.accessStop at h ⊢
  split at h
  · simp at h
  · rename_i hc
    rw [if_neg hc]
    rw [List.findSome?_eq_none_iff] at h ⊢
    intro a ha
    have := h a ha
    unfold State.byteStop at this ⊢
    split at this
    · split at this
      · simp at this
      · simp_all
    · simp_all

/-- Direct writes of the debug module keep the canonical form of both memories. -/
theorem State.pokeAll_wf (s : State) (ps : List Poke) (hd : s.dmem.wf = true) (hi : s.imem.wf = true) :
    (s.pokeAll ps).dmem.wf = true ∧ (s.pokeAll ps).imem.wf = true := by
  unfold State.pokeAll
  induction ps generalizing s with
  | nil => exact ⟨hd, hi⟩
  | cons p ps ih =>
    apply ih <;> unfold State.poke <;> split
    · exact hd
    · exact Memory.write_wf _ _ _ hd
    · exact Memory.write_wf _ _ _ hi
    · exact hi

/-- Placing a word in instruction memory keeps its canonical form. -/
theorem State.putCode_wf (s : State) (a w : Word) (hi : s.imem.wf = true) : (s.putCode a w).imem.wf = true :=
  Memory.write_wf _ _ _ (Memory.write_wf _ _ _ (Memory.write_wf _ _ _ (Memory.write_wf _ _ _ hi)))

end Sys2Proof.Machine
end

