-- ==== Sys2Proof/Laws/Registers.lean ====
section
/-! SUPPORT. The laws of the registers: reading after writing, and which updates leave every register, every byte of
memory or everything else alone. -/

namespace Sys2Proof.Machine

/-- The registers depend on their own fields and the parameters alone. -/
theorem State.readReg_congr (s t : State) (h1 : t.gprs = s.gprs) (h2 : t.lc = s.lc) (h3 : t.cc = s.cc)
    (h4 : t.cs = s.cs) (h5 : t.ep = s.ep) (h6 : t.ta = s.ta) (h7 : t.sa = s.sa) (h8 : t.ia = s.ia)
    (h9 : t.params = s.params) (r : Reg) : t.readReg r = s.readReg r := by
  cases r <;> simp [State.readReg, State.idWord, *]

@[simp] theorem readReg_advance (s : State) (r : Reg) : s.advance.readReg r = s.readReg r := by cases r <;> rfl
@[simp] theorem readReg_jumpTo (s : State) (a : Word) (r : Reg) : (s.jumpTo a).readReg r = s.readReg r := by
  cases r <;> rfl
@[simp] theorem readReg_drawn (s : State) (r : Reg) : s.drawn.readReg r = s.readReg r := by cases r <;> rfl
@[simp] theorem readReg_signal (s : State) (a : BusAccess) (r : Reg) : (s.signal a).readReg r = s.readReg r := by
  cases r <;> rfl
@[simp] theorem readReg_begin (s : State) (r : Reg) : s.begin.readReg r = s.readReg r := by cases r <;> rfl
@[simp] theorem readReg_readDbi (s : State) (r : Reg) : s.readDbi.readReg r = s.readReg r :=
  State.readReg_congr _ _ (by simp) (by simp) (by simp) (by simp) (by simp) (by simp) (by simp) (by simp) (by simp) r
@[simp] theorem readReg_returnChosen (s : State) (r : Reg) : s.returnChosen.readReg r = s.readReg r :=
  State.readReg_congr _ _ (by simp) (by simp) (by simp) (by simp) (by simp) (by simp) (by simp) (by simp) (by simp) r
@[simp] theorem readReg_afterRead (s : State) (e : Word) (z : Size) (r : Reg) :
    (s.afterRead e z).readReg r = s.readReg r := by unfold State.afterRead; split <;> simp
@[simp] theorem readReg_memWrite (s : State) (a : Word) (z : Size) (v : Word) (r : Reg) :
    (s.memWrite a z v).readReg r = s.readReg r :=
  State.readReg_congr _ _ (by simp) (by simp) (by simp) (by simp) (by simp) (by simp) (by simp) (by simp) (by simp) r

/-- A register other than the one written reads as before. -/
theorem State.readReg_writeReg_other (s : State) (r q : Reg) (v : Word) (h : q ≠ r) :
    (s.writeReg r v).readReg q = s.readReg q := by
  cases r with
  | gpr n =>
    cases q with
    | gpr m =>
      have hnm : n ≠ m := fun e => h (by rw [e])
      have : n.val ≠ m.val := fun e => hnm (Fin.ext e)
      simp [State.writeReg, State.readReg, this]
    | _ => rfl
  | _ => cases q <;> first | rfl | exact absurd rfl h

theorem linkWord_linkBits (v : Word) : linkWord (linkBits v) = v &&& 0xFFFFFFFC#32 := by
  apply BitVec.eq_of_getLsbD_eq; intro i hi
  simp only [linkWord, linkBits, BitVec.getLsbD_and, BitVec.getLsbD_append]
  interval_cases i <;> simp

/-- A register reads as the write view of what was written to it (10_state.md R43, R44). -/
theorem State.readReg_writeReg_self (s : State) (r : Reg) (v : Word) :
    (s.writeReg r v).readReg r = writeView r (s.readReg r) v := by
  cases r with
  | gpr n => simp [State.writeReg, State.readReg, writeView]
  | lc => rfl
  | ep => rfl
  | id => rfl
  | ta => exact linkWord_linkBits v
  | sa => exact linkWord_linkBits v
  | ia => exact linkWord_linkBits v
  | cc =>
    simp only [State.writeReg, State.readReg, writeView, Flags.bits, Flags.ofBits]
    apply BitVec.eq_of_getLsbD_eq; intro i hi
    simp only [BitVec.getLsbD_setWidth, BitVec.getLsbD_append, BitVec.getLsbD_and]
    interval_cases i <;> simp
  | cs =>
    simp only [State.writeReg, State.readReg, writeView, ControlStatus.word]
    apply BitVec.eq_of_getLsbD_eq; intro i hi
    simp only [BitVec.getLsbD_append, BitVec.getLsbD_and, BitVec.getLsbD_or]
    interval_cases i <;> simp

/-- Writing a register leaves every other register alone. -/
theorem KeepsRegs.writeReg (s : State) (r : Reg) (v : Word) : KeepsRegs s (s.writeReg r v) [r] := by
  intro q hq; exact State.readReg_writeReg_other s r q v (by simpa using hq)

theorem KeepsRegs.trans {s t u : State} {l m : List Reg} (h : KeepsRegs s t l) (h' : KeepsRegs t u m) :
    KeepsRegs s u (l ++ m) := by
  intro r hr
  rw [List.mem_append, not_or] at hr
  rw [h' r hr.2, h r hr.1]

/-- Where both memories and the parameters are the same, every byte reads the same. -/
theorem KeepsMemory.of_eq (s t : State) (hd : t.dmem = s.dmem) (hi : t.imem = s.imem) (hp : t.params = s.params) :
    KeepsMemory s t :=
  ⟨State.dataByte_congr s t hd hi hp, fun a => by rw [hi]⟩

@[simp] theorem dataByte_writeReg (s : State) (r : Reg) (v a : Word) : (s.writeReg r v).dataByte a = s.dataByte a :=
  State.dataByte_congr _ _ (by simp) (by simp) (by simp) a
@[simp] theorem dataByte_signal (s : State) (b : BusAccess) (a : Word) : (s.signal b).dataByte a = s.dataByte a :=
  State.dataByte_congr _ _ rfl rfl rfl a
@[simp] theorem dataByte_afterRead (s : State) (e : Word) (z : Size) (a : Word) :
    (s.afterRead e z).dataByte a = s.dataByte a := State.dataByte_congr _ _ (by simp) (by simp) (by simp) a
@[simp] theorem dataByte_begin (s : State) (a : Word) : s.begin.dataByte a = s.dataByte a :=
  State.dataByte_congr _ _ rfl rfl rfl a
@[simp] theorem readByte_writeReg (s : State) (r : Reg) (v a : Word) : (s.writeReg r v).readByte a = s.readByte a :=
  State.readByte_congr _ _ (by simp) (by simp) a (by simp)
@[simp] theorem readByte_signal (s : State) (b : BusAccess) (a : Word) : (s.signal b).readByte a = s.readByte a :=
  State.readByte_congr _ _ rfl rfl a (by simp)
@[simp] theorem memRead_writeReg (s : State) (r : Reg) (v e : Word) (z : Size) :
    (s.writeReg r v).memRead e z = s.memRead e z := State.memRead_congr _ _ e z (by simp)
@[simp] theorem memRead_signal (s : State) (b : BusAccess) (e : Word) (z : Size) :
    (s.signal b).memRead e z = s.memRead e z := State.memRead_congr _ _ e z (by simp)

/-- The counter of free values after a reading access: it moves where the access reaches a device, else it stays. -/
theorem State.afterRead_draws (s : State) (e : Word) (z : Size) (h : s.NoDevice e z) :
    (s.afterRead e z).draws = s.draws := by
  have : s.touchesDevice e z = false := by
    rw [State.touchesDevice, List.any_eq_false]
    intro a ha; simpa using h a ha
  simp [State.afterRead, this]

/-- A reading access is the state before it with some counter of free values. -/
theorem State.afterRead_eq (s : State) (e : Word) (z : Size) :
    s.afterRead e z = { s with draws := (s.afterRead e z).draws } := by
  unfold State.afterRead; split <;> rfl

/-- Signalling an access and writing a byte commute. -/
theorem State.putByte_signal (s : State) (b : BusAccess) (a : Word) (v : Byte) :
    (s.signal b).putByte a v = (s.putByte a v).signal b := by
  unfold State.putByte State.storeByte
  rw [State.regionAt_congr s (s.signal b) rfl a, State.codeAddr?_congr s (s.signal b) rfl a]
  split
  · cases s.codeAddr? a <;> rfl
  · rfl

/-- Signalling an access and writing memory commute. -/
theorem State.memWrite_signal (s : State) (b : BusAccess) (e : Word) (z : Size) (v : Word) :
    (s.signal b).memWrite e z v = (s.memWrite e z v).signal b := by
  cases z <;> simp [State.memWrite, State.putByte_signal]

end Sys2Proof.Machine
end

