-- ==== Sys2Proof/Laws/Operations.lean ====
section
/-! SUPPORT. What each shared operation can do, said once: one lemma per operation. -/

namespace Sys2Proof.Machine

theorem unlessStopped_next {stop : Option Stop} {k : Result} {t : State} (h : unlessStopped stop k = .next t) :
    stop = none ∧ k = .next t := by
  rcases stop with _ | e
  · exact ⟨rfl, h⟩
  · cases e <;> simp [unlessStopped, Stop.outcome] at h

theorem conditional_next {c : Cond} {refusal : Option Refusal} {s t : State} {effect : Result}
    (h : conditional c refusal s effect = .next t) :
    refusal = none ∧ c.defined = true ∧
      ((condHolds c s.cc = true ∧ effect = .next t) ∨ (condHolds c s.cc = false ∧ t = s.advance)) := by
  rcases refusal with _ | r
  · simp only [conditional] at h
    split at h
    · simp at h
    · rename_i hd
      split at h
      · exact ⟨rfl, by simpa using hd, .inl ⟨by assumption, h⟩⟩
      · exact ⟨rfl, by simpa using hd, .inr ⟨by simp_all, by simpa using h.symm⟩⟩
  · simp [conditional] at h

/-- A legal conditional instruction under a true condition. -/
theorem conditional_holds {c : Cond} {s : State} {effect : Result} (h : condHolds c s.cc = true) :
    conditional c none s effect = effect := by
  have : c.defined = true := by cases c <;> simp_all [Cond.defined, condHolds]
  simp [conditional, h, this]

/-- A legal conditional instruction under a false condition (40_operands_and_conditions.md R132). -/
theorem conditional_fails {c : Cond} {s : State} {effect : Result} (hd : c.defined = true)
    (h : condHolds c s.cc = false) : conditional c none s effect = .next s.advance := by
  simp [conditional, h, hd]

/-- A refused operand refuses before the condition is looked at. -/
theorem conditional_refused {c : Cond} {r : Refusal} {s : State} {effect : Result} :
    conditional c (some r) s effect = .refused r := rfl

@[simp] theorem condHolds_alw (f : Flags) : condHolds .alw f = true := rfl

/-- Where an instruction without effect leaves the machine. -/
theorem State.advance_eq_idled (s : State) : s.advance = s.idled := rfl

theorem compute_next {regs : List Reg} {c : Cond} {s effect t : State} (h : compute regs c s effect = .next t) :
    (∀ r ∈ regs, r.isGpr = true) ∧ c.defined = true ∧
      ((condHolds c s.cc = true ∧ t = effect.advance) ∨ (condHolds c s.cc = false ∧ t = s.advance)) := by
  obtain ⟨hr, hd, h⟩ := conditional_next h
  refine ⟨?_, hd, ?_⟩
  · simp only [computeRefusal, Option.map_eq_none_iff, List.find?_eq_none] at hr
    intro r hm; simpa using hr r hm
  · rcases h with ⟨hc, h⟩ | h
    · exact .inl ⟨hc, by simpa using h.symm⟩
    · exact .inr h

/-- A computation instruction over general registers, both ways its condition can fall. -/
theorem compute_legal {regs : List Reg} {c : Cond} {s effect : State} (hr : ∀ r ∈ regs, r.isGpr = true)
    (hd : c.defined = true) :
    compute regs c s effect = if condHolds c s.cc then .next effect.advance else .next s.advance := by
  have : computeRefusal regs = none := by
    simp only [computeRefusal, Option.map_eq_none_iff, List.find?_eq_none]
    intro r hm; simp [hr r hm]
  simp [compute, conditional, this, hd]

/-- The security exception: entered, or stopped for one of its three reasons (60_exceptions.md R328, R329, R345). -/
theorem securityException_next {s t : State} (h : securityException s = .next t) :
    s.stopped = false ∧ (s.params.secExcNeedsIe = true → s.cs.ie = true) ∧
      s.accessStop false (s.vectorAddr 0) .long = none ∧ t = s.returnChosen.enterInterrupt 0 s.offenderReturn := by
  obtain ⟨hs, h⟩ := unlessStopped_next h
  unfold State.securityStop at hs
  split at hs
  · simp at hs
  · split at hs
    · simp at hs
    · rename_i h1 h2
      refine ⟨by simpa using h1, ?_, hs, by simpa using h.symm⟩
      intro hp; simpa [hp] using h2

theorem securityException_enters {s : State} (h1 : s.stopped = false)
    (h2 : s.params.secExcNeedsIe = true → s.cs.ie = true) (h3 : s.accessStop false (s.vectorAddr 0) .long = none) :
    securityException s = .next (s.returnChosen.enterInterrupt 0 s.offenderReturn) := by
  have : s.securityStop = none := by
    unfold State.securityStop
    rw [if_neg (by simp [h1]), if_neg, h3]
    intro hc; simp only [Bool.and_eq_true, Bool.not_eq_true'] at hc; simp [h2 hc.1] at hc
  simp [securityException, this, unlessStopped]

/-- An external interrupt: entered, or stopped by the vector fetch (60_exceptions.md R326). -/
theorem externalInterrupt_next {n : BitVec 4} {s t : State} (h : externalInterrupt n s = .next t) :
    s.accessStop false (s.vectorAddr n) .long = none ∧ t = { s.enterInterrupt n s.pc with iack := some n } := by
  obtain ⟨hs, h⟩ := unlessStopped_next h
  exact ⟨hs, by simpa using h.symm⟩

/-- A write of the move family: the security exception for a protected register, else the write (42_move_debugport.md
R200, R201). -/
theorem moveTo_next {s after t : State} {rd : Reg} {v : Word} (h : s.moveTo rd v after = .next t) :
    (s.protects rd = true ∧ securityException s = .next t) ∨
      (s.protects rd = false ∧ t = (after.writeReg rd v).advance) := by
  unfold State.moveTo at h
  split at h
  · exact .inl ⟨by assumption, h⟩
  · exact .inr ⟨by simp_all, by simpa using h.symm⟩

theorem loadSingle_next {k : LoadKind} {m : AddrMode} {rd : Reg} {c : Cond} {s t : State}
    (h : loadSingle k m rd c s = .next t) :
    loadRefusal rd m = none ∧
      ((condHolds c s.cc = true ∧ s.accessStop false (m.eda k.size s) k.size = none ∧ t = (s.loaded k rd m).advance) ∨
        (condHolds c s.cc = false ∧ t = s.advance)) := by
  obtain ⟨hr, -, h⟩ := conditional_next h
  refine ⟨hr, ?_⟩
  rcases h with ⟨hc, h⟩ | h
  · obtain ⟨hs, h⟩ := unlessStopped_next h
    exact .inl ⟨hc, hs, by simpa using h.symm⟩
  · exact .inr h

theorem storeSingle_next {z : Size} {m : AddrMode} {rs : Reg} {c : Cond} {s t : State}
    (h : storeSingle z rs m c s = .next t) :
    accessRefusal rs m = none ∧
      ((condHolds c s.cc = true ∧ s.accessStop true (m.eda z s) z = none ∧ t = (s.stored z rs m).advance) ∨
        (condHolds c s.cc = false ∧ t = s.advance)) := by
  obtain ⟨hr, -, h⟩ := conditional_next h
  refine ⟨hr, ?_⟩
  rcases h with ⟨hc, h⟩ | h
  · obtain ⟨hs, h⟩ := unlessStopped_next h
    exact .inl ⟨hc, hs, by simpa using h.symm⟩
  · exact .inr h

theorem loadSelection_next {k : LoadKind} {d : RgsMode} {an : AReg} {sel : RegSel} {s t : State}
    (h : loadSelection k d an sel s = .next t) :
    loadSelectionRefusal an sel = none ∧
      s.transferStop false k.size (d.transfers k.size an sel s) = none ∧
      t = (s.loadedSelection k d an sel).advance := by
  obtain ⟨hr, -, h⟩ := conditional_next h
  rcases h with ⟨-, h⟩ | ⟨hc, -⟩
  · obtain ⟨hs, h⟩ := unlessStopped_next h
    exact ⟨hr, hs, by simpa using h.symm⟩
  · simp at hc

theorem storeSelection_next {z : Size} {d : RgsMode} {an : AReg} {sel : RegSel} {s t : State}
    (h : storeSelection z d sel an s = .next t) :
    selectionRefusal sel = none ∧
      s.transferStop true z (d.transfers z an sel s) = none ∧ t = (s.storedSelection z d sel an).advance := by
  obtain ⟨hr, -, h⟩ := conditional_next h
  rcases h with ⟨-, h⟩ | ⟨hc, -⟩
  · obtain ⟨hs, h⟩ := unlessStopped_next h
    exact ⟨hr, hs, by simpa using h.symm⟩
  · simp at hc

theorem flow_next {s effect t : State} (h : flow s effect = .next t) : s.stopped = false ∧ t = effect := by
  unfold flow at h
  split at h
  · simp at h
  · exact ⟨by simp_all, by simpa using h.symm⟩

theorem branchOn_next {c : Cond} {off : BitVec 14} {hint : Bool} {s t : State} (h : branchOn c off hint s = .next t) :
    s.stopped = false ∧ t = s.jumpTo (if condHolds c s.cc then s.branchTarget off else s.pc + 4#32) := by
  obtain ⟨hs, h⟩ := flow_next h
  exact ⟨hs, by rw [h]; split <;> rfl⟩

theorem interruptEnable_next {s t : State} {c : ControlStatus} (h : interruptEnable s c = .next t) :
    (s.cs.ir = false ∧ s.params.ieOps = .securityException ∧ securityException s = .next t) ∨
      t = { s with cs := c }.advance := by
  unfold interruptEnable at h
  split at h
  · rename_i hc
    simp only [Bool.and_eq_true, Bool.not_eq_true', beq_iff_eq] at hc
    exact .inl ⟨hc.1, hc.2, h⟩
  · exact .inr (by simpa using h.symm)

theorem runWord_next {w : Word} {s t : State} (h : runWord w s = .next t) :
    ∃ i, decode w = .ok i ∧ exec i s = .next t := by
  unfold runWord at h
  split at h
  · exact ⟨_, by assumption, h⟩
  · simp at h

theorem runWord_ok {w : Word} {i : Instr} (s : State) (h : decode w = .ok i) : runWord w s = exec i s := by
  simp [runWord, h]

theorem fetchRun_next {b : Bool} {s t : State} (h : fetchRun b s = .next t) :
    s.fetchStop (wordAligned s.pc) = none ∧
      ∃ i, decode (if b then stopWord else s.codeWord (wordAligned s.pc)) = .ok i ∧ exec i s.fetched = .next t := by
  obtain ⟨hs, h⟩ := unlessStopped_next h
  exact ⟨hs, runWord_next h⟩

theorem stoppedStep_next {inp : Inputs} {s t : State} (h : stoppedStep inp s = .next t) :
    (∃ w i, inp.inji = some w ∧ decode w = .ok i ∧
        exec i { s.pokeAll inp.pokes with strqSeen := s.strqSeen || inp.strq } = .next t) ∨
      (inp.inji = none ∧ s.strqSeen = true ∧ inp.strq = false ∧
        t = { s.pokeAll inp.pokes with stopped := false, strqSeen := false }) ∨
      (inp.inji = none ∧ (s.strqSeen = false ∨ inp.strq = true) ∧
        t = { s.pokeAll inp.pokes with strqSeen := s.strqSeen || inp.strq }) := by
  unfold stoppedStep at h
  simp only at h
  split at h
  · rename_i w hw
    obtain ⟨i, hi, h⟩ := runWord_next h
    exact .inl ⟨w, i, hw, hi, h⟩
  · split at h
    · rename_i hn hc
      simp only [Bool.and_eq_true, Bool.not_eq_true'] at hc
      exact .inr (.inl ⟨hn, hc.1, hc.2, by simpa using h.symm⟩)
    · rename_i hn hc
      refine .inr (.inr ⟨hn, ?_, by simpa using h.symm⟩)
      cases hs : s.strqSeen <;> simp_all

/-- One step, by the order of events (60_exceptions.md R331). -/
theorem step_next {s t : State} (h : step s = .next t) :
    (s.nextInputs.reset = true ∧ t = s.begin.coldStart s.nextInputs.irn) ∨
      (s.nextInputs.reset = false ∧ s.stopped = true ∧ stoppedStep s.nextInputs s.begin = .next t) ∨
      (s.nextInputs.reset = false ∧ s.stopped = false ∧ s.nextInputs.strq = true ∧ t = s.begin.enterStopped) ∨
      (s.nextInputs.reset = false ∧ s.stopped = false ∧ s.nextInputs.strq = false ∧ s.nextInputs.irq = true ∧
        s.cs.ie = true ∧ s.cs.ir = false ∧ externalInterrupt s.nextInputs.irn s.begin = .next t) ∨
      (s.nextInputs.reset = false ∧ s.stopped = false ∧ s.nextInputs.strq = false ∧
        fetchRun s.nextInputs.breakpoint s.begin = .next t) := by
  unfold step cycle cycleWith at h
  split at h
  · exact .inl ⟨by assumption, by simpa using h.symm⟩
  · rename_i hr
    simp only [Bool.not_eq_true] at hr
    split at h
    · exact .inr (.inl ⟨hr, by simpa using ‹s.begin.stopped = true›, h⟩)
    · rename_i hs
      have hs : s.stopped = false := by simpa using hs
      split at h
      · exact .inr (.inr (.inl ⟨hr, hs, by assumption, by simpa using h.symm⟩))
      · rename_i hq
        simp only [Bool.not_eq_true] at hq
        split at h
        · rename_i ha
          simp only [State.acknowledges, Bool.and_eq_true, Bool.not_eq_true', begin_cs] at ha
          exact .inr (.inr (.inr (.inl ⟨hr, hs, hq, ha.1.1, ha.1.2, ha.2, h⟩)))
        · exact .inr (.inr (.inr (.inr ⟨hr, hs, hq, h⟩)))

end Sys2Proof.Machine
end

