-- ==== Sys2Proof/Laws/Exec.lean ====
section
/-! SUPPORT. What an instruction can do, said once for all 136 of them: the shapes of the next state. A rule about every
instruction is a case analysis over the shapes. -/

namespace Sys2Proof.Machine

/-- The next states an instruction can have. -/
inductive ExecShape (i : Instr) (s : State) : State → Prop
  /-- A false condition. -/
  | idle : ExecShape i s s.advance
  /-- A general register is written. -/
  | computed (n : Gpr) (v : Word) : ExecShape i s (s.writeReg (.gpr n) v).advance
  /-- A general register and the flags are written. -/
  | flagged (n : Gpr) (v : Word) (f : Flags) (h : writesFlags i = true) :
      ExecShape i s ((s.setFlags f).writeReg (.gpr n) v).advance
  /-- The flags are written. -/
  | tested (f : Flags) (h : writesFlags i = true) : ExecShape i s (s.setFlags f).advance
  /-- move. -/
  | moved (rd : Reg) (v : Word) (h : moveDest i = some rd) (hp : s.protects rd = false) :
      ExecShape i s (s.writeReg rd v).advance
  /-- mfdp. -/
  | received (rd : Reg) (v : Word) (h : moveDest i = some rd) (hp : s.protects rd = false) :
      ExecShape i s (s.readDbi.writeReg rd v).advance
  /-- mtdp. -/
  | sent (v : Word) : ExecShape i s { s with dbo := v }.advance
  /-- The security exception. -/
  | trapped (hi : (∃ rd, moveDest i = some rd ∧ (rd = .cs ∨ rd = .ia)) ∨
        (i ∈ [Instr.stie, .clie, .scie, .rsie] ∧ s.params.ieOps = .securityException))
      (hm : s.cs.ir = false) (h : securityException s = .next t) : ExecShape i s t
  /-- A single-register load. -/
  | loaded (k : LoadKind) (m : AddrMode) (rd : Reg) (h : loadRefusal rd m = none) :
      ExecShape i s (s.loaded k rd m).advance
  /-- A single-register store. -/
  | stored (z : Size) (m : AddrMode) (rs : Reg) (c : Cond) (hi : i = z.form rs m c)
      (h : s.accessStop true (m.eda z s) z = none) : ExecShape i s (s.stored z rs m).advance
  /-- An RGS load. -/
  | loadedSelection (k : LoadKind) (d : RgsMode) (an : AReg) (sel : RegSel) (h : loadSelectionRefusal an sel = none) :
      ExecShape i s (s.loadedSelection k d an sel).advance
  /-- An RGS store. -/
  | storedSelection (z : Size) (d : RgsMode) (an : AReg) (sel : RegSel) (hi : i = z.rgsForm d sel an)
      (h : s.transferStop true z (d.transfers z an sel s) = none) :
      ExecShape i s (s.storedSelection z d sel an).advance
  /-- A jump or a branch. -/
  | jumped (a : Word) (hs : s.stopped = false) (h : setsPc i = true) (ha : s.pc &&& 3#32 = 0#32 → a &&& 3#32 = 0#32) :
      ExecShape i s (s.jumpTo a)
  /-- jpsr. -/
  | linked (a : Word) (hs : s.stopped = false) (h : setsPc i = true) (ha : a &&& 3#32 = 0#32) :
      ExecShape i s (s.link.jumpTo a)
  /-- brlc. -/
  | counted (a : Word) (hs : s.stopped = false) (h : setsPc i = true)
      (ha : s.pc &&& 3#32 = 0#32 → a &&& 3#32 = 0#32) : ExecShape i s ((s.writeReg .lc s.decremented).jumpTo a)
  /-- rtir. -/
  | returned (hs : s.stopped = false) (hr : s.cs.ir = true) (h : i = .rtir) : ExecShape i s s.leaveInterrupt
  /-- stie, clie, rsie. -/
  | enabled (e : Bool) (h : i ∈ [Instr.stie, .clie, .rsie]) : ExecShape i s { s with cs := { s.cs with ie := e } }.advance
  /-- scie. -/
  | saved (h : i = .scie) : ExecShape i s { s with cs := { s.cs with is := s.cs.ie, ie := false } }.advance
  /-- stop. -/
  | halted (hs : s.stopped = false) (h : i = .stop) : ExecShape i s { s.advance with stopped := true }
  /-- svpc. -/
  | reported (hs : s.stopped = true) (h : i = .svpc) : ExecShape i s { s.reportChosen with dbo := s.reportedPc }
  /-- rspc. -/
  | restored (hs : s.stopped = true) (h : i = .rspc) : ExecShape i s (s.readDbi.jumpTo (wordAligned s.dbiWord))

/-! ### Each shared operation has its shape -/

theorem compute_writes {i : Instr} {regs : List Reg} {rd : Reg} {c : Cond} {v : Word} {s t : State}
    (hm : rd ∈ regs) (h : compute regs c s (s.writeReg rd v) = .next t) : ExecShape i s t := by
  obtain ⟨hr, -, ⟨-, rfl⟩ | ⟨-, rfl⟩⟩ := compute_next h
  · cases rd with
    | gpr n => exact .computed n v
    | _ => exact absurd (hr _ hm) (by simp [Reg.isGpr])
  · exact .idle

theorem compute_flags {i : Instr} {regs : List Reg} {rd : Reg} {c : Cond} {v : Word} {f : Flags} {s t : State}
    (hi : writesFlags i = true) (hm : rd ∈ regs) (h : compute regs c s ((s.setFlags f).writeReg rd v) = .next t) :
    ExecShape i s t := by
  obtain ⟨hr, -, ⟨-, rfl⟩ | ⟨-, rfl⟩⟩ := compute_next h
  · cases rd with
    | gpr n => exact .flagged n v f hi
    | _ => exact absurd (hr _ hm) (by simp [Reg.isGpr])
  · exact .idle

theorem compute_tests {i : Instr} {regs : List Reg} {c : Cond} {f : Flags} {s t : State}
    (hi : writesFlags i = true) (h : compute regs c s (s.setFlags f) = .next t) : ExecShape i s t := by
  obtain ⟨-, -, ⟨-, rfl⟩ | ⟨-, rfl⟩⟩ := compute_next h
  · exact .tested f hi
  · exact .idle

theorem State.protects_true {s : State} {r : Reg} (h : s.protects r = true) : s.cs.ir = false ∧ (r = .cs ∨ r = .ia) := by
  simpa [State.protects] using h

theorem move_shape {i : Instr} {c : Cond} {f : Option Refusal} {rd : Reg} {v : Word} {s t : State}
    (hi : moveDest i = some rd) (h : conditional c f s (s.moveTo rd v s) = .next t) : ExecShape i s t := by
  obtain ⟨-, -, ⟨-, h⟩ | ⟨-, rfl⟩⟩ := conditional_next h
  · rcases moveTo_next h with ⟨hp, h⟩ | ⟨hp, rfl⟩
    · exact .trapped (.inl ⟨rd, hi, (State.protects_true hp).2⟩) (State.protects_true hp).1 h
    · exact .moved rd v hi hp
  · exact .idle

theorem loadSingle_shape {i : Instr} {k : LoadKind} {m : AddrMode} {rd : Reg} {c : Cond} {s t : State}
    (h : loadSingle k m rd c s = .next t) : ExecShape i s t := by
  obtain ⟨hr, ⟨-, -, rfl⟩ | ⟨-, rfl⟩⟩ := loadSingle_next h
  · exact .loaded k m rd hr
  · exact .idle

theorem storeSingle_shape {i : Instr} {z : Size} {m : AddrMode} {rs : Reg} {c : Cond} {s t : State}
    (hi : i = z.form rs m c) (h : storeSingle z rs m c s = .next t) : ExecShape i s t := by
  obtain ⟨-, ⟨-, hs, rfl⟩ | ⟨-, rfl⟩⟩ := storeSingle_next h
  · exact .stored z m rs c hi hs
  · exact .idle

theorem loadSelection_shape {i : Instr} {k : LoadKind} {d : RgsMode} {an : AReg} {sel : RegSel} {s t : State}
    (h : loadSelection k d an sel s = .next t) : ExecShape i s t := by
  obtain ⟨hr, -, rfl⟩ := loadSelection_next h
  exact .loadedSelection k d an sel hr

theorem storeSelection_shape {i : Instr} {z : Size} {d : RgsMode} {an : AReg} {sel : RegSel} {s t : State}
    (hi : i = z.rgsForm d sel an) (h : storeSelection z d sel an s = .next t) : ExecShape i s t := by
  obtain ⟨-, hs, rfl⟩ := storeSelection_next h
  exact .storedSelection z d an sel hi hs

theorem linkWord_aligned (a : BitVec 30) : linkWord a &&& 3#32 = 0#32 := by
  apply BitVec.eq_of_getLsbD_eq; intro i hi
  simp only [linkWord, BitVec.getLsbD_and, BitVec.getLsbD_append]
  interval_cases i <;> simp

theorem wordAligned_aligned (a : Word) : wordAligned a &&& 3#32 = 0#32 := by
  apply BitVec.eq_of_getLsbD_eq; intro i hi
  simp only [wordAligned, BitVec.getLsbD_and]
  interval_cases i <;> simp

theorem directTarget_aligned (a : BitVec 27) : directTarget a &&& 3#32 = 0#32 := by
  apply BitVec.eq_of_getLsbD_eq; intro i hi
  simp only [directTarget, BitVec.getLsbD_and, BitVec.getLsbD_setWidth, BitVec.getLsbD_append]
  interval_cases i <;> simp

theorem branchOffset_aligned (a : BitVec 14) : branchOffset a &&& 3#32 = 0#32 := by
  apply BitVec.eq_of_getLsbD_eq; intro i hi
  simp only [branchOffset, BitVec.getLsbD_and, BitVec.getLsbD_signExtend, BitVec.getLsbD_append]
  interval_cases i <;> simp

/-- Alignment is a remainder. -/
theorem aligned_iff (a : Word) : a &&& 3#32 = 0#32 ↔ a.toNat % 4 = 0 := by
  have h : (a &&& 3#32).toNat = a.toNat % 4 := by
    rw [BitVec.toNat_and]; exact Nat.and_two_pow_sub_one_eq_mod a.toNat 2
  constructor
  · intro e; rw [← h, e]; rfl
  · intro e; apply BitVec.eq_of_toNat_eq; rw [h, e]; rfl

theorem aligned_add {a b : Word} (ha : a &&& 3#32 = 0#32) (hb : b &&& 3#32 = 0#32) : (a + b) &&& 3#32 = 0#32 := by
  rw [aligned_iff] at *
  rw [BitVec.toNat_add]
  omega

theorem branchOn_shape {i : Instr} {c : Cond} {off : BitVec 14} {hint : Bool} {s t : State} (hi : setsPc i = true)
    (h : branchOn c off hint s = .next t) : ExecShape i s t := by
  obtain ⟨hs, rfl⟩ := branchOn_next h
  refine .jumped _ hs hi fun hp => ?_
  split
  · exact aligned_add hp (branchOffset_aligned off)
  · exact aligned_add hp rfl

/-- Every next state of an instruction has one of the shapes. -/
theorem exec_shape {i : Instr} {s t : State} (h : exec i s = .next t) : ExecShape i s t := by
  cases i with
  | subfTri rs0 rs1 rd cnd => exact compute_flags rfl (by simp) h
  | addtTri rs0 rs1 rd cnd => exact compute_flags rfl (by simp) h
  | subcTri rs0 rs1 rd cnd => exact compute_flags rfl (by simp) h
  | addcTri rs0 rs1 rd cnd => exact compute_flags rfl (by simp) h
  | andbTri rs0 rs1 rd cnd => exact compute_flags rfl (by simp) h
  | iorbTri rs0 rs1 rd cnd => exact compute_writes (rd := rd) (by simp) h
  | xorbTri rs0 rs1 rd cnd => exact compute_writes (rd := rd) (by simp) h
  | mult rs0 rs1 rd cnd => exact compute_writes (rd := rd) (by simp) h
  | mlhu rs0 rs1 rd cnd => exact compute_writes (rd := rd) (by simp) h
  | mlhs rs0 rs1 rd cnd => exact compute_writes (rd := rd) (by simp) h
  | moveDual rs rd cnd => exact move_shape rfl h
  | negt rs rd cnd => exact compute_writes (rd := rd) (by simp) h
  | absl rs rd cnd => exact compute_writes (rd := rd) (by simp) h
  | invt rs rd cnd => exact compute_writes (rd := rd) (by simp) h
  | clzr rs rd cnd => exact compute_writes (rd := rd) (by simp) h
  | ibos rs rd cnd => exact compute_writes (rd := rd) (by simp) h
  | ibol rs rd cnd => exact compute_writes (rd := rd) (by simp) h
  | shlzK5 k rs1 rd cnd => exact compute_writes (rd := rd) (by simp) h
  | shlzTri rs0 rs1 rd cnd => exact compute_writes (rd := rd) (by simp) h
  | shruK5 k rs1 rd cnd => exact compute_writes (rd := rd) (by simp) h
  | shruTri rs0 rs1 rd cnd => exact compute_writes (rd := rd) (by simp) h
  | shlfK5 k rs1 rd cnd => exact compute_writes (rd := rd) (by simp) h
  | shlfTri rs0 rs1 rd cnd => exact compute_writes (rd := rd) (by simp) h
  | shrsK5 k rs1 rd cnd => exact compute_writes (rd := rd) (by simp) h
  | shrsTri rs0 rs1 rd cnd => exact compute_writes (rd := rd) (by simp) h
  | btclK5 k rs1 rd cnd => exact compute_writes (rd := rd) (by simp) h
  | btclTri rs0 rs1 rd cnd => exact compute_writes (rd := rd) (by simp) h
  | btstK5 k rs1 rd cnd => exact compute_writes (rd := rd) (by simp) h
  | btstTri rs0 rs1 rd cnd => exact compute_writes (rd := rd) (by simp) h
  | bttgK5 k rs1 rd cnd => exact compute_writes (rd := rd) (by simp) h
  | bttgTri rs0 rs1 rd cnd => exact compute_writes (rd := rd) (by simp) h
  | bttsK5t k rs1 cnd => exact compute_tests rfl h
  | bttsTrit rs0 rs1 cnd => exact compute_tests rfl h
  | compCmpr rs0 rs1 => exact compute_tests rfl h
  | cmpcCmpr rs0 rs1 => exact compute_tests rfl h
  | mtdp rs =>
    obtain ⟨-, -, ⟨-, h⟩ | ⟨-, rfl⟩⟩ := conditional_next h
    · cases h; exact .sent _
    · exact .idle
  | mfdp rd =>
    obtain ⟨-, -, ⟨-, h⟩ | ⟨-, rfl⟩⟩ := conditional_next h
    · rcases moveTo_next h with ⟨hp, h⟩ | ⟨hp, rfl⟩
      · exact .trapped (.inl ⟨rd, rfl, (State.protects_true hp).2⟩) (State.protects_true hp).1 h
      · exact .received rd _ rfl hp
    · exact .idle
  | subfK12 c rs1 rd cnd => exact compute_flags rfl (by simp) h
  | addtK12 c rs1 rd cnd => exact compute_flags rfl (by simp) h
  | subcK12 c rs1 rd cnd => exact compute_flags rfl (by simp) h
  | addcK12 c rs1 rd cnd => exact compute_flags rfl (by simp) h
  | moveK17m c rd cnd => exact move_shape rfl h
  | subfK16 c rs1 rd => exact compute_flags rfl (by simp) h
  | addtK16 c rs1 rd => exact compute_flags rfl (by simp) h
  | andbK16 c rs1 rd => exact compute_flags rfl (by simp) h
  | iorbK16 c rs1 rd => exact compute_writes (rd := rd) (by simp) h
  | xorbK16 c rs1 rd => exact compute_writes (rd := rd) (by simp) h
  | addh hi rs1 rd => exact compute_writes (rd := rd) (by simp) h
  | mlcu c rs1 rd => exact compute_writes (rd := rd) (by simp) h
  | mlcs c rs1 rd => exact compute_writes (rd := rd) (by simp) h
  | compK17c c rs1 => exact compute_tests rfl h
  | cmpcK17c c rs1 => exact compute_tests rfl h
  | ldbzLsd da rd cnd => exact loadSingle_shape h
  | ldbzLso dof an rd cnd => exact loadSingle_shape h
  | ldbzLsu an au rd cnd => exact loadSingle_shape h
  | ldbzLsr an ru rd cnd => exact loadSingle_shape h
  | ldbzLsx rx an rd cnd => exact loadSingle_shape h
  | ldbzRgsi an sel => exact loadSelection_shape h
  | ldbzRgsd an sel => exact loadSelection_shape h
  | ldbsLsd da rd cnd => exact loadSingle_shape h
  | ldbsLso dof an rd cnd => exact loadSingle_shape h
  | ldbsLsu an au rd cnd => exact loadSingle_shape h
  | ldbsLsr an ru rd cnd => exact loadSingle_shape h
  | ldbsLsx rx an rd cnd => exact loadSingle_shape h
  | ldbsRgsi an sel => exact loadSelection_shape h
  | ldbsRgsd an sel => exact loadSelection_shape h
  | ldszLsd da rd cnd => exact loadSingle_shape h
  | ldszLso dof an rd cnd => exact loadSingle_shape h
  | ldszLsu an au rd cnd => exact loadSingle_shape h
  | ldszLsr an ru rd cnd => exact loadSingle_shape h
  | ldszLsx rx an rd cnd => exact loadSingle_shape h
  | ldszRgsi an sel => exact loadSelection_shape h
  | ldszRgsd an sel => exact loadSelection_shape h
  | ldssLsd da rd cnd => exact loadSingle_shape h
  | ldssLso dof an rd cnd => exact loadSingle_shape h
  | ldssLsu an au rd cnd => exact loadSingle_shape h
  | ldssLsr an ru rd cnd => exact loadSingle_shape h
  | ldssLsx rx an rd cnd => exact loadSingle_shape h
  | ldssRgsi an sel => exact loadSelection_shape h
  | ldssRgsd an sel => exact loadSelection_shape h
  | ldlgLsd da rd cnd => exact loadSingle_shape h
  | ldlgLso dof an rd cnd => exact loadSingle_shape h
  | ldlgLsu an au rd cnd => exact loadSingle_shape h
  | ldlgLsr an ru rd cnd => exact loadSingle_shape h
  | ldlgLsx rx an rd cnd => exact loadSingle_shape h
  | ldlgRgsi an sel => exact loadSelection_shape h
  | ldlgRgsd an sel => exact loadSelection_shape h
  | stbtLsd rs da cnd => exact storeSingle_shape (z := .byte) (m := .direct da) rfl h
  | stbtLso rs dof an cnd => exact storeSingle_shape (z := .byte) (m := .offset dof an) rfl h
  | stbtLsu rs an au cnd => exact storeSingle_shape (z := .byte) (m := .update an au) rfl h
  | stbtLsr rs an ru cnd => exact storeSingle_shape (z := .byte) (m := .regUpdate an ru) rfl h
  | stbtLsx rs rx an cnd => exact storeSingle_shape (z := .byte) (m := .index rx an) rfl h
  | stbtRgsi sel an => exact storeSelection_shape (z := .byte) (d := .up) rfl h
  | stbtRgsd sel an => exact storeSelection_shape (z := .byte) (d := .down) rfl h
  | stlgLsd rs da cnd => exact storeSingle_shape (z := .long) (m := .direct da) rfl h
  | stlgLso rs dof an cnd => exact storeSingle_shape (z := .long) (m := .offset dof an) rfl h
  | stlgLsu rs an au cnd => exact storeSingle_shape (z := .long) (m := .update an au) rfl h
  | stlgLsr rs an ru cnd => exact storeSingle_shape (z := .long) (m := .regUpdate an ru) rfl h
  | stlgLsx rs rx an cnd => exact storeSingle_shape (z := .long) (m := .index rx an) rfl h
  | stlgRgsi sel an => exact storeSelection_shape (z := .long) (d := .up) rfl h
  | stlgRgsd sel an => exact storeSelection_shape (z := .long) (d := .down) rfl h
  | stshLsd rs da cnd => exact storeSingle_shape (z := .short) (m := .direct da) rfl h
  | stshLso rs dof an cnd => exact storeSingle_shape (z := .short) (m := .offset dof an) rfl h
  | stshLsu rs an au cnd => exact storeSingle_shape (z := .short) (m := .update an au) rfl h
  | stshLsr rs an ru cnd => exact storeSingle_shape (z := .short) (m := .regUpdate an ru) rfl h
  | stshLsx rs rx an cnd => exact storeSingle_shape (z := .short) (m := .index rx an) rfl h
  | stshRgsi sel an => exact storeSelection_shape (z := .short) (d := .up) rfl h
  | stshRgsd sel an => exact storeSelection_shape (z := .short) (d := .down) rfl h
  | brnc off hint => exact branchOn_shape (hint := hint) rfl h
  | brcr off hint => exact branchOn_shape (hint := hint) rfl h
  | brno off hint => exact branchOn_shape (hint := hint) rfl h
  | brof off hint => exact branchOn_shape (hint := hint) rfl h
  | brnz off hint => exact branchOn_shape (hint := hint) rfl h
  | brzr off hint => exact branchOn_shape (hint := hint) rfl h
  | brps off hint => exact branchOn_shape (hint := hint) rfl h
  | brng off hint => exact branchOn_shape (hint := hint) rfl h
  | brls off hint => exact branchOn_shape (hint := hint) rfl h
  | brhi off hint => exact branchOn_shape (hint := hint) rfl h
  | brlo off hint => exact branchOn_shape (hint := hint) rfl h
  | brge off hint => exact branchOn_shape (hint := hint) rfl h
  | brle off hint => exact branchOn_shape (hint := hint) rfl h
  | brgt off hint => exact branchOn_shape (hint := hint) rfl h
  | brlc off =>
    obtain ⟨hs, rfl⟩ := flow_next h
    refine .counted _ hs rfl fun hp => ?_
    split
    · exact aligned_add hp (branchOffset_aligned off)
    · exact aligned_add hp rfl
  | jumpImp =>
    obtain ⟨hs, rfl⟩ := flow_next h; exact .jumped _ hs rfl fun _ => linkWord_aligned _
  | jpsrImp =>
    obtain ⟨hs, rfl⟩ := flow_next h; exact .linked _ hs rfl (linkWord_aligned _)
  | rtsr =>
    obtain ⟨hs, rfl⟩ := flow_next h; exact .jumped _ hs rfl fun _ => linkWord_aligned _
  | rtir =>
    simp only [exec, execRtir] at h
    split at h
    · simp at h
    · split at h
      · cases h; exact .returned (by simp_all) (by assumption) rfl
      · simp at h
  | stop =>
    simp only [exec, execStop] at h
    split at h
    · simp at h
    · cases h; exact .halted (by simp_all) rfl
  | svpc =>
    simp only [exec, execSvpc] at h
    split at h
    · cases h; exact .reported (by assumption) rfl
    · simp at h
  | rspc =>
    simp only [exec, execRspc] at h
    split at h
    · cases h; exact .restored (by assumption) rfl
    · simp at h
  | stie =>
    rcases interruptEnable_next h with ⟨hm, hp, h⟩ | rfl
    · exact .trapped (.inr ⟨by simp, hp⟩) hm h
    · exact .enabled _ (by simp)
  | clie =>
    rcases interruptEnable_next h with ⟨hm, hp, h⟩ | rfl
    · exact .trapped (.inr ⟨by simp, hp⟩) hm h
    · exact .enabled _ (by simp)
  | rsie =>
    rcases interruptEnable_next h with ⟨hm, hp, h⟩ | rfl
    · exact .trapped (.inr ⟨by simp, hp⟩) hm h
    · exact .enabled _ (by simp)
  | scie =>
    rcases interruptEnable_next h with ⟨hm, hp, h⟩ | rfl
    · exact .trapped (.inr ⟨by simp, hp⟩) hm h
    · exact .saved rfl
  | jumpJa ia =>
    obtain ⟨hs, rfl⟩ := flow_next h; exact .jumped _ hs rfl fun _ => directTarget_aligned _
  | jpsrJa ia =>
    obtain ⟨hs, rfl⟩ := flow_next h; exact .linked _ hs rfl (directTarget_aligned _)

/-! ### The meaning each arm calls -/

@[simp] theorem exec_subfTri (rs0 : Reg) (rs1 : Reg) (rd : Reg) (cnd : Cond) (s : State) : exec (.subfTri rs0 rs1 rd cnd) s = execSubfTri rs0 rs1 rd cnd s := rfl
@[simp] theorem exec_addtTri (rs0 : Reg) (rs1 : Reg) (rd : Reg) (cnd : Cond) (s : State) : exec (.addtTri rs0 rs1 rd cnd) s = execAddtTri rs0 rs1 rd cnd s := rfl
@[simp] theorem exec_subcTri (rs0 : Reg) (rs1 : Reg) (rd : Reg) (cnd : Cond) (s : State) : exec (.subcTri rs0 rs1 rd cnd) s = execSubcTri rs0 rs1 rd cnd s := rfl
@[simp] theorem exec_addcTri (rs0 : Reg) (rs1 : Reg) (rd : Reg) (cnd : Cond) (s : State) : exec (.addcTri rs0 rs1 rd cnd) s = execAddcTri rs0 rs1 rd cnd s := rfl
@[simp] theorem exec_andbTri (rs0 : Reg) (rs1 : Reg) (rd : Reg) (cnd : Cond) (s : State) : exec (.andbTri rs0 rs1 rd cnd) s = execAndbTri rs0 rs1 rd cnd s := rfl
@[simp] theorem exec_iorbTri (rs0 : Reg) (rs1 : Reg) (rd : Reg) (cnd : Cond) (s : State) : exec (.iorbTri rs0 rs1 rd cnd) s = execIorbTri rs0 rs1 rd cnd s := rfl
@[simp] theorem exec_xorbTri (rs0 : Reg) (rs1 : Reg) (rd : Reg) (cnd : Cond) (s : State) : exec (.xorbTri rs0 rs1 rd cnd) s = execXorbTri rs0 rs1 rd cnd s := rfl
@[simp] theorem exec_mult (rs0 : Reg) (rs1 : Reg) (rd : Reg) (cnd : Cond) (s : State) : exec (.mult rs0 rs1 rd cnd) s = execMult rs0 rs1 rd cnd s := rfl
@[simp] theorem exec_mlhu (rs0 : Reg) (rs1 : Reg) (rd : Reg) (cnd : Cond) (s : State) : exec (.mlhu rs0 rs1 rd cnd) s = execMlhu rs0 rs1 rd cnd s := rfl
@[simp] theorem exec_mlhs (rs0 : Reg) (rs1 : Reg) (rd : Reg) (cnd : Cond) (s : State) : exec (.mlhs rs0 rs1 rd cnd) s = execMlhs rs0 rs1 rd cnd s := rfl
@[simp] theorem exec_moveDual (rs : Reg) (rd : Reg) (cnd : Cond) (s : State) : exec (.moveDual rs rd cnd) s = execMoveDual rs rd cnd s := rfl
@[simp] theorem exec_negt (rs : Reg) (rd : Reg) (cnd : Cond) (s : State) : exec (.negt rs rd cnd) s = execNegt rs rd cnd s := rfl
@[simp] theorem exec_absl (rs : Reg) (rd : Reg) (cnd : Cond) (s : State) : exec (.absl rs rd cnd) s = execAbsl rs rd cnd s := rfl
@[simp] theorem exec_invt (rs : Reg) (rd : Reg) (cnd : Cond) (s : State) : exec (.invt rs rd cnd) s = execInvt rs rd cnd s := rfl
@[simp] theorem exec_clzr (rs : Reg) (rd : Reg) (cnd : Cond) (s : State) : exec (.clzr rs rd cnd) s = execClzr rs rd cnd s := rfl
@[simp] theorem exec_ibos (rs : Reg) (rd : Reg) (cnd : Cond) (s : State) : exec (.ibos rs rd cnd) s = execIbos rs rd cnd s := rfl
@[simp] theorem exec_ibol (rs : Reg) (rd : Reg) (cnd : Cond) (s : State) : exec (.ibol rs rd cnd) s = execIbol rs rd cnd s := rfl
@[simp] theorem exec_shlzK5 (k : BitVec 5) (rs1 : Reg) (rd : Reg) (cnd : Cond) (s : State) : exec (.shlzK5 k rs1 rd cnd) s = execShlzK5 k rs1 rd cnd s := rfl
@[simp] theorem exec_shlzTri (rs0 : Reg) (rs1 : Reg) (rd : Reg) (cnd : Cond) (s : State) : exec (.shlzTri rs0 rs1 rd cnd) s = execShlzTri rs0 rs1 rd cnd s := rfl
@[simp] theorem exec_shruK5 (k : BitVec 5) (rs1 : Reg) (rd : Reg) (cnd : Cond) (s : State) : exec (.shruK5 k rs1 rd cnd) s = execShruK5 k rs1 rd cnd s := rfl
@[simp] theorem exec_shruTri (rs0 : Reg) (rs1 : Reg) (rd : Reg) (cnd : Cond) (s : State) : exec (.shruTri rs0 rs1 rd cnd) s = execShruTri rs0 rs1 rd cnd s := rfl
@[simp] theorem exec_shlfK5 (k : BitVec 5) (rs1 : Reg) (rd : Reg) (cnd : Cond) (s : State) : exec (.shlfK5 k rs1 rd cnd) s = execShlfK5 k rs1 rd cnd s := rfl
@[simp] theorem exec_shlfTri (rs0 : Reg) (rs1 : Reg) (rd : Reg) (cnd : Cond) (s : State) : exec (.shlfTri rs0 rs1 rd cnd) s = execShlfTri rs0 rs1 rd cnd s := rfl
@[simp] theorem exec_shrsK5 (k : BitVec 5) (rs1 : Reg) (rd : Reg) (cnd : Cond) (s : State) : exec (.shrsK5 k rs1 rd cnd) s = execShrsK5 k rs1 rd cnd s := rfl
@[simp] theorem exec_shrsTri (rs0 : Reg) (rs1 : Reg) (rd : Reg) (cnd : Cond) (s : State) : exec (.shrsTri rs0 rs1 rd cnd) s = execShrsTri rs0 rs1 rd cnd s := rfl
@[simp] theorem exec_btclK5 (k : BitVec 5) (rs1 : Reg) (rd : Reg) (cnd : Cond) (s : State) : exec (.btclK5 k rs1 rd cnd) s = execBtclK5 k rs1 rd cnd s := rfl
@[simp] theorem exec_btclTri (rs0 : Reg) (rs1 : Reg) (rd : Reg) (cnd : Cond) (s : State) : exec (.btclTri rs0 rs1 rd cnd) s = execBtclTri rs0 rs1 rd cnd s := rfl
@[simp] theorem exec_btstK5 (k : BitVec 5) (rs1 : Reg) (rd : Reg) (cnd : Cond) (s : State) : exec (.btstK5 k rs1 rd cnd) s = execBtstK5 k rs1 rd cnd s := rfl
@[simp] theorem exec_btstTri (rs0 : Reg) (rs1 : Reg) (rd : Reg) (cnd : Cond) (s : State) : exec (.btstTri rs0 rs1 rd cnd) s = execBtstTri rs0 rs1 rd cnd s := rfl
@[simp] theorem exec_bttgK5 (k : BitVec 5) (rs1 : Reg) (rd : Reg) (cnd : Cond) (s : State) : exec (.bttgK5 k rs1 rd cnd) s = execBttgK5 k rs1 rd cnd s := rfl
@[simp] theorem exec_bttgTri (rs0 : Reg) (rs1 : Reg) (rd : Reg) (cnd : Cond) (s : State) : exec (.bttgTri rs0 rs1 rd cnd) s = execBttgTri rs0 rs1 rd cnd s := rfl
@[simp] theorem exec_bttsK5t (k : BitVec 5) (rs1 : Reg) (cnd : Cond) (s : State) : exec (.bttsK5t k rs1 cnd) s = execBttsK5t k rs1 cnd s := rfl
@[simp] theorem exec_bttsTrit (rs0 : Reg) (rs1 : Reg) (cnd : Cond) (s : State) : exec (.bttsTrit rs0 rs1 cnd) s = execBttsTrit rs0 rs1 cnd s := rfl
@[simp] theorem exec_compCmpr (rs0 : Reg) (rs1 : Reg) (s : State) : exec (.compCmpr rs0 rs1) s = execCompCmpr rs0 rs1 s := rfl
@[simp] theorem exec_cmpcCmpr (rs0 : Reg) (rs1 : Reg) (s : State) : exec (.cmpcCmpr rs0 rs1) s = execCmpcCmpr rs0 rs1 s := rfl
@[simp] theorem exec_mtdp (rs : Reg) (s : State) : exec (.mtdp rs) s = execMtdp rs s := rfl
@[simp] theorem exec_mfdp (rd : Reg) (s : State) : exec (.mfdp rd) s = execMfdp rd s := rfl
@[simp] theorem exec_subfK12 (c : BitVec 12) (rs1 : Reg) (rd : Reg) (cnd : Cond) (s : State) : exec (.subfK12 c rs1 rd cnd) s = execSubfK12 c rs1 rd cnd s := rfl
@[simp] theorem exec_addtK12 (c : BitVec 12) (rs1 : Reg) (rd : Reg) (cnd : Cond) (s : State) : exec (.addtK12 c rs1 rd cnd) s = execAddtK12 c rs1 rd cnd s := rfl
@[simp] theorem exec_subcK12 (c : BitVec 12) (rs1 : Reg) (rd : Reg) (cnd : Cond) (s : State) : exec (.subcK12 c rs1 rd cnd) s = execSubcK12 c rs1 rd cnd s := rfl
@[simp] theorem exec_addcK12 (c : BitVec 12) (rs1 : Reg) (rd : Reg) (cnd : Cond) (s : State) : exec (.addcK12 c rs1 rd cnd) s = execAddcK12 c rs1 rd cnd s := rfl
@[simp] theorem exec_moveK17m (c : BitVec 17) (rd : Reg) (cnd : Cond) (s : State) : exec (.moveK17m c rd cnd) s = execMoveK17m c rd cnd s := rfl
@[simp] theorem exec_subfK16 (c : BitVec 16) (rs1 : Reg) (rd : Reg) (s : State) : exec (.subfK16 c rs1 rd) s = execSubfK16 c rs1 rd s := rfl
@[simp] theorem exec_addtK16 (c : BitVec 16) (rs1 : Reg) (rd : Reg) (s : State) : exec (.addtK16 c rs1 rd) s = execAddtK16 c rs1 rd s := rfl
@[simp] theorem exec_andbK16 (c : BitVec 16) (rs1 : Reg) (rd : Reg) (s : State) : exec (.andbK16 c rs1 rd) s = execAndbK16 c rs1 rd s := rfl
@[simp] theorem exec_iorbK16 (c : BitVec 16) (rs1 : Reg) (rd : Reg) (s : State) : exec (.iorbK16 c rs1 rd) s = execIorbK16 c rs1 rd s := rfl
@[simp] theorem exec_xorbK16 (c : BitVec 16) (rs1 : Reg) (rd : Reg) (s : State) : exec (.xorbK16 c rs1 rd) s = execXorbK16 c rs1 rd s := rfl
@[simp] theorem exec_addh (hi : BitVec 16) (rs1 : Reg) (rd : Reg) (s : State) : exec (.addh hi rs1 rd) s = execAddh hi rs1 rd s := rfl
@[simp] theorem exec_mlcu (c : BitVec 16) (rs1 : Reg) (rd : Reg) (s : State) : exec (.mlcu c rs1 rd) s = execMlcu c rs1 rd s := rfl
@[simp] theorem exec_mlcs (c : BitVec 16) (rs1 : Reg) (rd : Reg) (s : State) : exec (.mlcs c rs1 rd) s = execMlcs c rs1 rd s := rfl
@[simp] theorem exec_compK17c (c : BitVec 17) (rs1 : Reg) (s : State) : exec (.compK17c c rs1) s = execCompK17c c rs1 s := rfl
@[simp] theorem exec_cmpcK17c (c : BitVec 17) (rs1 : Reg) (s : State) : exec (.cmpcK17c c rs1) s = execCmpcK17c c rs1 s := rfl
@[simp] theorem exec_ldbzLsd (da : BitVec 16) (rd : Reg) (cnd : Cond) (s : State) : exec (.ldbzLsd da rd cnd) s = execLdbzLsd da rd cnd s := rfl
@[simp] theorem exec_ldbzLso (dof : BitVec 12) (an : AReg) (rd : Reg) (cnd : Cond) (s : State) : exec (.ldbzLso dof an rd cnd) s = execLdbzLso dof an rd cnd s := rfl
@[simp] theorem exec_ldbzLsu (an : AReg) (au : BitVec 12) (rd : Reg) (cnd : Cond) (s : State) : exec (.ldbzLsu an au rd cnd) s = execLdbzLsu an au rd cnd s := rfl
@[simp] theorem exec_ldbzLsr (an : AReg) (ru : Reg) (rd : Reg) (cnd : Cond) (s : State) : exec (.ldbzLsr an ru rd cnd) s = execLdbzLsr an ru rd cnd s := rfl
@[simp] theorem exec_ldbzLsx (rx : Reg) (an : AReg) (rd : Reg) (cnd : Cond) (s : State) : exec (.ldbzLsx rx an rd cnd) s = execLdbzLsx rx an rd cnd s := rfl
@[simp] theorem exec_ldbzRgsi (an : AReg) (sel : RegSel) (s : State) : exec (.ldbzRgsi an sel) s = execLdbzRgsi an sel s := rfl
@[simp] theorem exec_ldbzRgsd (an : AReg) (sel : RegSel) (s : State) : exec (.ldbzRgsd an sel) s = execLdbzRgsd an sel s := rfl
@[simp] theorem exec_ldbsLsd (da : BitVec 16) (rd : Reg) (cnd : Cond) (s : State) : exec (.ldbsLsd da rd cnd) s = execLdbsLsd da rd cnd s := rfl
@[simp] theorem exec_ldbsLso (dof : BitVec 12) (an : AReg) (rd : Reg) (cnd : Cond) (s : State) : exec (.ldbsLso dof an rd cnd) s = execLdbsLso dof an rd cnd s := rfl
@[simp] theorem exec_ldbsLsu (an : AReg) (au : BitVec 12) (rd : Reg) (cnd : Cond) (s : State) : exec (.ldbsLsu an au rd cnd) s = execLdbsLsu an au rd cnd s := rfl
@[simp] theorem exec_ldbsLsr (an : AReg) (ru : Reg) (rd : Reg) (cnd : Cond) (s : State) : exec (.ldbsLsr an ru rd cnd) s = execLdbsLsr an ru rd cnd s := rfl
@[simp] theorem exec_ldbsLsx (rx : Reg) (an : AReg) (rd : Reg) (cnd : Cond) (s : State) : exec (.ldbsLsx rx an rd cnd) s = execLdbsLsx rx an rd cnd s := rfl
@[simp] theorem exec_ldbsRgsi (an : AReg) (sel : RegSel) (s : State) : exec (.ldbsRgsi an sel) s = execLdbsRgsi an sel s := rfl
@[simp] theorem exec_ldbsRgsd (an : AReg) (sel : RegSel) (s : State) : exec (.ldbsRgsd an sel) s = execLdbsRgsd an sel s := rfl
@[simp] theorem exec_ldszLsd (da : BitVec 16) (rd : Reg) (cnd : Cond) (s : State) : exec (.ldszLsd da rd cnd) s = execLdszLsd da rd cnd s := rfl
@[simp] theorem exec_ldszLso (dof : BitVec 12) (an : AReg) (rd : Reg) (cnd : Cond) (s : State) : exec (.ldszLso dof an rd cnd) s = execLdszLso dof an rd cnd s := rfl
@[simp] theorem exec_ldszLsu (an : AReg) (au : BitVec 12) (rd : Reg) (cnd : Cond) (s : State) : exec (.ldszLsu an au rd cnd) s = execLdszLsu an au rd cnd s := rfl
@[simp] theorem exec_ldszLsr (an : AReg) (ru : Reg) (rd : Reg) (cnd : Cond) (s : State) : exec (.ldszLsr an ru rd cnd) s = execLdszLsr an ru rd cnd s := rfl
@[simp] theorem exec_ldszLsx (rx : Reg) (an : AReg) (rd : Reg) (cnd : Cond) (s : State) : exec (.ldszLsx rx an rd cnd) s = execLdszLsx rx an rd cnd s := rfl
@[simp] theorem exec_ldszRgsi (an : AReg) (sel : RegSel) (s : State) : exec (.ldszRgsi an sel) s = execLdszRgsi an sel s := rfl
@[simp] theorem exec_ldszRgsd (an : AReg) (sel : RegSel) (s : State) : exec (.ldszRgsd an sel) s = execLdszRgsd an sel s := rfl
@[simp] theorem exec_ldssLsd (da : BitVec 16) (rd : Reg) (cnd : Cond) (s : State) : exec (.ldssLsd da rd cnd) s = execLdssLsd da rd cnd s := rfl
@[simp] theorem exec_ldssLso (dof : BitVec 12) (an : AReg) (rd : Reg) (cnd : Cond) (s : State) : exec (.ldssLso dof an rd cnd) s = execLdssLso dof an rd cnd s := rfl
@[simp] theorem exec_ldssLsu (an : AReg) (au : BitVec 12) (rd : Reg) (cnd : Cond) (s : State) : exec (.ldssLsu an au rd cnd) s = execLdssLsu an au rd cnd s := rfl
@[simp] theorem exec_ldssLsr (an : AReg) (ru : Reg) (rd : Reg) (cnd : Cond) (s : State) : exec (.ldssLsr an ru rd cnd) s = execLdssLsr an ru rd cnd s := rfl
@[simp] theorem exec_ldssLsx (rx : Reg) (an : AReg) (rd : Reg) (cnd : Cond) (s : State) : exec (.ldssLsx rx an rd cnd) s = execLdssLsx rx an rd cnd s := rfl
@[simp] theorem exec_ldssRgsi (an : AReg) (sel : RegSel) (s : State) : exec (.ldssRgsi an sel) s = execLdssRgsi an sel s := rfl
@[simp] theorem exec_ldssRgsd (an : AReg) (sel : RegSel) (s : State) : exec (.ldssRgsd an sel) s = execLdssRgsd an sel s := rfl
@[simp] theorem exec_ldlgLsd (da : BitVec 16) (rd : Reg) (cnd : Cond) (s : State) : exec (.ldlgLsd da rd cnd) s = execLdlgLsd da rd cnd s := rfl
@[simp] theorem exec_ldlgLso (dof : BitVec 12) (an : AReg) (rd : Reg) (cnd : Cond) (s : State) : exec (.ldlgLso dof an rd cnd) s = execLdlgLso dof an rd cnd s := rfl
@[simp] theorem exec_ldlgLsu (an : AReg) (au : BitVec 12) (rd : Reg) (cnd : Cond) (s : State) : exec (.ldlgLsu an au rd cnd) s = execLdlgLsu an au rd cnd s := rfl
@[simp] theorem exec_ldlgLsr (an : AReg) (ru : Reg) (rd : Reg) (cnd : Cond) (s : State) : exec (.ldlgLsr an ru rd cnd) s = execLdlgLsr an ru rd cnd s := rfl
@[simp] theorem exec_ldlgLsx (rx : Reg) (an : AReg) (rd : Reg) (cnd : Cond) (s : State) : exec (.ldlgLsx rx an rd cnd) s = execLdlgLsx rx an rd cnd s := rfl
@[simp] theorem exec_ldlgRgsi (an : AReg) (sel : RegSel) (s : State) : exec (.ldlgRgsi an sel) s = execLdlgRgsi an sel s := rfl
@[simp] theorem exec_ldlgRgsd (an : AReg) (sel : RegSel) (s : State) : exec (.ldlgRgsd an sel) s = execLdlgRgsd an sel s := rfl
@[simp] theorem exec_stbtLsd (rs : Reg) (da : BitVec 16) (cnd : Cond) (s : State) : exec (.stbtLsd rs da cnd) s = execStbtLsd rs da cnd s := rfl
@[simp] theorem exec_stbtLso (rs : Reg) (dof : BitVec 12) (an : AReg) (cnd : Cond) (s : State) : exec (.stbtLso rs dof an cnd) s = execStbtLso rs dof an cnd s := rfl
@[simp] theorem exec_stbtLsu (rs : Reg) (an : AReg) (au : BitVec 12) (cnd : Cond) (s : State) : exec (.stbtLsu rs an au cnd) s = execStbtLsu rs an au cnd s := rfl
@[simp] theorem exec_stbtLsr (rs : Reg) (an : AReg) (ru : Reg) (cnd : Cond) (s : State) : exec (.stbtLsr rs an ru cnd) s = execStbtLsr rs an ru cnd s := rfl
@[simp] theorem exec_stbtLsx (rs : Reg) (rx : Reg) (an : AReg) (cnd : Cond) (s : State) : exec (.stbtLsx rs rx an cnd) s = execStbtLsx rs rx an cnd s := rfl
@[simp] theorem exec_stbtRgsi (sel : RegSel) (an : AReg) (s : State) : exec (.stbtRgsi sel an) s = execStbtRgsi sel an s := rfl
@[simp] theorem exec_stbtRgsd (sel : RegSel) (an : AReg) (s : State) : exec (.stbtRgsd sel an) s = execStbtRgsd sel an s := rfl
@[simp] theorem exec_stlgLsd (rs : Reg) (da : BitVec 16) (cnd : Cond) (s : State) : exec (.stlgLsd rs da cnd) s = execStlgLsd rs da cnd s := rfl
@[simp] theorem exec_stlgLso (rs : Reg) (dof : BitVec 12) (an : AReg) (cnd : Cond) (s : State) : exec (.stlgLso rs dof an cnd) s = execStlgLso rs dof an cnd s := rfl
@[simp] theorem exec_stlgLsu (rs : Reg) (an : AReg) (au : BitVec 12) (cnd : Cond) (s : State) : exec (.stlgLsu rs an au cnd) s = execStlgLsu rs an au cnd s := rfl
@[simp] theorem exec_stlgLsr (rs : Reg) (an : AReg) (ru : Reg) (cnd : Cond) (s : State) : exec (.stlgLsr rs an ru cnd) s = execStlgLsr rs an ru cnd s := rfl
@[simp] theorem exec_stlgLsx (rs : Reg) (rx : Reg) (an : AReg) (cnd : Cond) (s : State) : exec (.stlgLsx rs rx an cnd) s = execStlgLsx rs rx an cnd s := rfl
@[simp] theorem exec_stlgRgsi (sel : RegSel) (an : AReg) (s : State) : exec (.stlgRgsi sel an) s = execStlgRgsi sel an s := rfl
@[simp] theorem exec_stlgRgsd (sel : RegSel) (an : AReg) (s : State) : exec (.stlgRgsd sel an) s = execStlgRgsd sel an s := rfl
@[simp] theorem exec_stshLsd (rs : Reg) (da : BitVec 16) (cnd : Cond) (s : State) : exec (.stshLsd rs da cnd) s = execStshLsd rs da cnd s := rfl
@[simp] theorem exec_stshLso (rs : Reg) (dof : BitVec 12) (an : AReg) (cnd : Cond) (s : State) : exec (.stshLso rs dof an cnd) s = execStshLso rs dof an cnd s := rfl
@[simp] theorem exec_stshLsu (rs : Reg) (an : AReg) (au : BitVec 12) (cnd : Cond) (s : State) : exec (.stshLsu rs an au cnd) s = execStshLsu rs an au cnd s := rfl
@[simp] theorem exec_stshLsr (rs : Reg) (an : AReg) (ru : Reg) (cnd : Cond) (s : State) : exec (.stshLsr rs an ru cnd) s = execStshLsr rs an ru cnd s := rfl
@[simp] theorem exec_stshLsx (rs : Reg) (rx : Reg) (an : AReg) (cnd : Cond) (s : State) : exec (.stshLsx rs rx an cnd) s = execStshLsx rs rx an cnd s := rfl
@[simp] theorem exec_stshRgsi (sel : RegSel) (an : AReg) (s : State) : exec (.stshRgsi sel an) s = execStshRgsi sel an s := rfl
@[simp] theorem exec_stshRgsd (sel : RegSel) (an : AReg) (s : State) : exec (.stshRgsd sel an) s = execStshRgsd sel an s := rfl
@[simp] theorem exec_brnc (off : BitVec 14) (hint : Bool) (s : State) : exec (.brnc off hint) s = execBrnc off hint s := rfl
@[simp] theorem exec_brcr (off : BitVec 14) (hint : Bool) (s : State) : exec (.brcr off hint) s = execBrcr off hint s := rfl
@[simp] theorem exec_brno (off : BitVec 14) (hint : Bool) (s : State) : exec (.brno off hint) s = execBrno off hint s := rfl
@[simp] theorem exec_brof (off : BitVec 14) (hint : Bool) (s : State) : exec (.brof off hint) s = execBrof off hint s := rfl
@[simp] theorem exec_brnz (off : BitVec 14) (hint : Bool) (s : State) : exec (.brnz off hint) s = execBrnz off hint s := rfl
@[simp] theorem exec_brzr (off : BitVec 14) (hint : Bool) (s : State) : exec (.brzr off hint) s = execBrzr off hint s := rfl
@[simp] theorem exec_brps (off : BitVec 14) (hint : Bool) (s : State) : exec (.brps off hint) s = execBrps off hint s := rfl
@[simp] theorem exec_brng (off : BitVec 14) (hint : Bool) (s : State) : exec (.brng off hint) s = execBrng off hint s := rfl
@[simp] theorem exec_brls (off : BitVec 14) (hint : Bool) (s : State) : exec (.brls off hint) s = execBrls off hint s := rfl
@[simp] theorem exec_brhi (off : BitVec 14) (hint : Bool) (s : State) : exec (.brhi off hint) s = execBrhi off hint s := rfl
@[simp] theorem exec_brlo (off : BitVec 14) (hint : Bool) (s : State) : exec (.brlo off hint) s = execBrlo off hint s := rfl
@[simp] theorem exec_brge (off : BitVec 14) (hint : Bool) (s : State) : exec (.brge off hint) s = execBrge off hint s := rfl
@[simp] theorem exec_brle (off : BitVec 14) (hint : Bool) (s : State) : exec (.brle off hint) s = execBrle off hint s := rfl
@[simp] theorem exec_brgt (off : BitVec 14) (hint : Bool) (s : State) : exec (.brgt off hint) s = execBrgt off hint s := rfl
@[simp] theorem exec_brlc (off : BitVec 14) (s : State) : exec (.brlc off) s = execBrlc off s := rfl
@[simp] theorem exec_jumpImp (s : State) : exec .jumpImp s = execJumpImp s := rfl
@[simp] theorem exec_jpsrImp (s : State) : exec .jpsrImp s = execJpsrImp s := rfl
@[simp] theorem exec_rtsr (s : State) : exec .rtsr s = execRtsr s := rfl
@[simp] theorem exec_rtir (s : State) : exec .rtir s = execRtir s := rfl
@[simp] theorem exec_stop (s : State) : exec .stop s = execStop s := rfl
@[simp] theorem exec_svpc (s : State) : exec .svpc s = execSvpc s := rfl
@[simp] theorem exec_rspc (s : State) : exec .rspc s = execRspc s := rfl
@[simp] theorem exec_stie (s : State) : exec .stie s = execStie s := rfl
@[simp] theorem exec_clie (s : State) : exec .clie s = execClie s := rfl
@[simp] theorem exec_rsie (s : State) : exec .rsie s = execRsie s := rfl
@[simp] theorem exec_scie (s : State) : exec .scie s = execScie s := rfl
@[simp] theorem exec_jumpJa (ia : BitVec 27) (s : State) : exec (.jumpJa ia) s = execJumpJa ia s := rfl
@[simp] theorem exec_jpsrJa (ia : BitVec 27) (s : State) : exec (.jpsrJa ia) s = execJpsrJa ia s := rfl

end Sys2Proof.Machine
end

