-- ==== Sys2Proof/Laws/PerInstr.lean ====
section
/-! SUPPORT. One fact per instruction: the word of an instruction carries the fixed bits of a row of the opcode table
(30_encoding.md R93, R101, R102). -/

namespace Sys2Proof.Laws

/-! ### The fixed bits of each format -/

theorem Format.tri_fixed (fixed : BitVec 7) (op : BitVec 6) (rs0 rs1 rd : Reg) (cnd : Cond) :
    Format.tri fixed op rs0 rs1 rd cnd &&& 0x0FE0003F#32 = 0#4 ++ fixed ++ 0#15 ++ op := by
  apply BitVec.eq_of_getLsbD_eq; intro i hi
  simp only [Format.tri, BitVec.getLsbD_and, BitVec.getLsbD_append]
  interval_cases i <;> simp

theorem Format.trit_fixed (fixed : BitVec 7) (op : BitVec 6) (rs0 rs1 : Reg) (cnd : Cond) :
    Format.trit fixed op rs0 rs1 cnd &&& 0x0FE0F83F#32 = 0#4 ++ fixed ++ 0#15 ++ op := by
  apply BitVec.eq_of_getLsbD_eq; intro i hi
  simp only [Format.trit, BitVec.getLsbD_and, BitVec.getLsbD_append]
  interval_cases i <;> simp

theorem Format.dual_fixed (op : BitVec 6) (rs rd : Reg) (cnd : Cond) :
    Format.dual op rs rd cnd &&& 0x0FE007FF#32 = 0#4 ++ 0b0100000#7 ++ 0#15 ++ op := by
  apply BitVec.eq_of_getLsbD_eq; intro i hi
  simp only [Format.dual, BitVec.getLsbD_and, BitVec.getLsbD_append]
  interval_cases i <;> simp

theorem Format.k5_fixed (op : BitVec 6) (k : BitVec 5) (rs1 rd : Reg) (cnd : Cond) :
    Format.k5 op k rs1 rd cnd &&& 0x0FE0003F#32 = 0#4 ++ 0b1000000#7 ++ 0#15 ++ op := by
  apply BitVec.eq_of_getLsbD_eq; intro i hi
  simp only [Format.k5, BitVec.getLsbD_and, BitVec.getLsbD_append]
  interval_cases i <;> simp

theorem Format.k5t_fixed (op : BitVec 6) (k : BitVec 5) (rs1 : Reg) (cnd : Cond) :
    Format.k5t op k rs1 cnd &&& 0x0FE0F83F#32 = 0#4 ++ 0b1000000#7 ++ 0#15 ++ op := by
  apply BitVec.eq_of_getLsbD_eq; intro i hi
  simp only [Format.k5t, BitVec.getLsbD_and, BitVec.getLsbD_append]
  interval_cases i <;> simp

theorem Format.cmpr_fixed (op : BitVec 6) (rs0 rs1 : Reg) :
    Format.cmpr op rs0 rs1 &&& 0xFFE0F83F#32 = 0#4 ++ 0b1110000#7 ++ 0#15 ++ op := by
  apply BitVec.eq_of_getLsbD_eq; intro i hi
  simp only [Format.cmpr, BitVec.getLsbD_and, BitVec.getLsbD_append]
  interval_cases i <;> simp

theorem Format.dps_fixed (rs : Reg) :
    Format.dps rs &&& 0xFFE0FFFF#32 = 0x0C000000#32 := by
  apply BitVec.eq_of_getLsbD_eq; intro i hi
  simp only [Format.dps, BitVec.getLsbD_and, BitVec.getLsbD_append]
  interval_cases i <;> simp

theorem Format.dpd_fixed (rd : Reg) :
    Format.dpd rd &&& 0xFFFF07FF#32 = 0x0C000008#32 := by
  apply BitVec.eq_of_getLsbD_eq; intro i hi
  simp only [Format.dpd, BitVec.getLsbD_and, BitVec.getLsbD_append]
  interval_cases i <;> simp

theorem Format.k12_fixed (op : BitVec 6) (c : BitVec 12) (rs1 rd : Reg) (cnd : Cond) :
    Format.k12 op c rs1 rd cnd &&& 0x0000003F#32 = 0#26 ++ op := by
  apply BitVec.eq_of_getLsbD_eq; intro i hi
  simp only [Format.k12, BitVec.getLsbD_and, BitVec.getLsbD_append]
  interval_cases i <;> simp

theorem Format.k17m_fixed (c : BitVec 17) (rd : Reg) (cnd : Cond) :
    Format.k17m c rd cnd &&& 0x00000437#32 = 0x00000021#32 := by
  apply BitVec.eq_of_getLsbD_eq; intro i hi
  simp only [Format.k17m, BitVec.getLsbD_and, BitVec.getLsbD_append]
  interval_cases i <;> simp

theorem Format.k16_fixed (op : BitVec 6) (c : BitVec 16) (rs1 rd : Reg) :
    Format.k16 op c rs1 rd &&& 0x0000003F#32 = 0#26 ++ op := by
  apply BitVec.eq_of_getLsbD_eq; intro i hi
  simp only [Format.k16, BitVec.getLsbD_and, BitVec.getLsbD_append]
  interval_cases i <;> simp

theorem Format.k17c_fixed (t : BitVec 1) (c : BitVec 17) (rs1 : Reg) :
    Format.k17c t c rs1 &&& 0x0000F837#32 = 0#26 ++ 1#1 ++ t ++ 0#1 ++ 0b011#3 := by
  apply BitVec.eq_of_getLsbD_eq; intro i hi
  simp only [Format.k17c, BitVec.getLsbD_and, BitVec.getLsbD_append]
  interval_cases i <;> simp

theorem Format.lsd_fixed (type : BitVec 3) (da : BitVec 16) (reg : Reg) (cnd : Cond) :
    Format.lsd type da reg cnd &&& 0x0000803F#32 = 0#16 ++ 0#10 ++ type ++ 0b100#3 := by
  apply BitVec.eq_of_getLsbD_eq; intro i hi
  simp only [Format.lsd, BitVec.getLsbD_and, BitVec.getLsbD_append]
  interval_cases i <;> simp

theorem Format.lso_fixed (type : BitVec 3) (dof : BitVec 12) (an : AReg) (reg : Reg) (cnd : Cond) :
    Format.lso type dof an reg cnd &&& 0x0000803F#32 = 0#16 ++ 1#1 ++ 0#9 ++ type ++ 0b100#3 := by
  apply BitVec.eq_of_getLsbD_eq; intro i hi
  simp only [Format.lso, BitVec.getLsbD_and, BitVec.getLsbD_append]
  interval_cases i <;> simp

theorem Format.lsu_fixed (type : BitVec 3) (an : AReg) (au : BitVec 12) (reg : Reg) (cnd : Cond) :
    Format.lsu type an au reg cnd &&& 0x0000803F#32 = 0#26 ++ type ++ 0b101#3 := by
  apply BitVec.eq_of_getLsbD_eq; intro i hi
  simp only [Format.lsu, BitVec.getLsbD_and, BitVec.getLsbD_append]
  interval_cases i <;> simp

theorem Format.lsr_fixed (type : BitVec 3) (an : AReg) (ru reg : Reg) (cnd : Cond) :
    Format.lsr type an ru reg cnd &&& 0x0FE0803F#32 = 0#16 ++ 1#1 ++ 0#9 ++ type ++ 0b101#3 := by
  apply BitVec.eq_of_getLsbD_eq; intro i hi
  simp only [Format.lsr, BitVec.getLsbD_and, BitVec.getLsbD_append]
  interval_cases i <;> simp

theorem Format.lsx_fixed (type : BitVec 3) (rx : Reg) (an : AReg) (reg : Reg) (cnd : Cond) :
    Format.lsx type rx an reg cnd &&& 0x0FE0803F#32 = 0#4 ++ 0b0100000#7 ++ 0#5 ++ 1#1 ++ 0#9 ++ type ++ 0b101#3 := by
  apply BitVec.eq_of_getLsbD_eq; intro i hi
  simp only [Format.lsx, BitVec.getLsbD_and, BitVec.getLsbD_append]
  interval_cases i <;> simp

theorem Format.rgsUp_fixed (type : BitVec 3) (an : AReg) (sel : RegSel) :
    Format.rgsUp type an sel &&& 0x0C00803F#32 = 0#4 ++ 0b10#2 ++ 0#10 ++ 1#1 ++ 0#9 ++ type ++ 0b101#3 := by
  apply BitVec.eq_of_getLsbD_eq; intro i hi
  simp only [Format.rgsUp, Format.rgs, BitVec.getLsbD_and, BitVec.getLsbD_append]
  interval_cases i <;> simp

theorem Format.rgsDown_fixed (type : BitVec 3) (an : AReg) (sel : RegSel) :
    Format.rgsDown type an sel &&& 0x0C00803F#32 = 0#4 ++ 0b11#2 ++ 0#10 ++ 1#1 ++ 0#9 ++ type ++ 0b101#3 := by
  apply BitVec.eq_of_getLsbD_eq; intro i hi
  simp only [Format.rgsDown, Format.rgs, BitVec.getLsbD_and, BitVec.getLsbD_append]
  interval_cases i <;> simp

theorem Format.br_fixed (k : BitVec 4) (off : BitVec 14) (hint : Bool) :
    Format.br k off hint &&& 0xFF0001FF#32 = 0#23 ++ 1#1 ++ k ++ 0b0110#4 := by
  apply BitVec.eq_of_getLsbD_eq; intro i hi
  simp only [Format.br, BitVec.getLsbD_and, BitVec.getLsbD_append]
  interval_cases i <;> simp

theorem Format.imp_fixed (k : BitVec 4) :
    Format.imp k &&& 0xFFFFFFFF#32 = 0#24 ++ k ++ 0b0110#4 := by
  apply BitVec.eq_of_getLsbD_eq; intro i hi
  simp only [Format.imp, BitVec.getLsbD_and, BitVec.getLsbD_append]
  interval_cases i <;> simp

theorem Format.ja_fixed (j : BitVec 1) (ia : BitVec 27) :
    Format.ja j ia &&& 0x0000001F#32 = 0#27 ++ j ++ 0b1110#4 := by
  apply BitVec.eq_of_getLsbD_eq; intro i hi
  simp only [Format.ja, BitVec.getLsbD_and, BitVec.getLsbD_append]
  interval_cases i <;> simp

/-! ### The family -/

/-- A row of the opcode table accepts the word of the instruction. -/
def FixedBits.Statement (i : Instr) : Prop := ∃ r ∈ opcodeTable, r.accepts (encode i) = true

/-- A row accepts a word whose masked bits are its pattern. -/
theorem FixedBits.of_row (k : Nat) (i : Instr) {p m : Word}
    (ht : (opcodeTable[k]?.map fun r => (r.pattern, r.mask)) = some (p, m)) (hr : encode i &&& m = p) :
    FixedBits.Statement i := by
  obtain ⟨r, hm, he⟩ := Option.map_eq_some_iff.1 ht
  obtain ⟨rfl, rfl⟩ := Prod.mk.inj he
  exact ⟨r, List.mem_of_getElem? hm, beq_iff_eq.2 hr⟩

theorem FixedBits.subfTri (rs0 rs1 rd : Reg) (cnd : Cond) : FixedBits.Statement (.subfTri rs0 rs1 rd cnd) :=
  FixedBits.of_row 0 _ rfl (Format.tri_fixed ..)
theorem FixedBits.addtTri (rs0 rs1 rd : Reg) (cnd : Cond) : FixedBits.Statement (.addtTri rs0 rs1 rd cnd) :=
  FixedBits.of_row 1 _ rfl (Format.tri_fixed ..)
theorem FixedBits.subcTri (rs0 rs1 rd : Reg) (cnd : Cond) : FixedBits.Statement (.subcTri rs0 rs1 rd cnd) :=
  FixedBits.of_row 2 _ rfl (Format.tri_fixed ..)
theorem FixedBits.addcTri (rs0 rs1 rd : Reg) (cnd : Cond) : FixedBits.Statement (.addcTri rs0 rs1 rd cnd) :=
  FixedBits.of_row 3 _ rfl (Format.tri_fixed ..)
theorem FixedBits.andbTri (rs0 rs1 rd : Reg) (cnd : Cond) : FixedBits.Statement (.andbTri rs0 rs1 rd cnd) :=
  FixedBits.of_row 4 _ rfl (Format.tri_fixed ..)
theorem FixedBits.iorbTri (rs0 rs1 rd : Reg) (cnd : Cond) : FixedBits.Statement (.iorbTri rs0 rs1 rd cnd) :=
  FixedBits.of_row 5 _ rfl (Format.tri_fixed ..)
theorem FixedBits.xorbTri (rs0 rs1 rd : Reg) (cnd : Cond) : FixedBits.Statement (.xorbTri rs0 rs1 rd cnd) :=
  FixedBits.of_row 6 _ rfl (Format.tri_fixed ..)
theorem FixedBits.mult (rs0 rs1 rd : Reg) (cnd : Cond) : FixedBits.Statement (.mult rs0 rs1 rd cnd) :=
  FixedBits.of_row 7 _ rfl (Format.tri_fixed ..)
theorem FixedBits.mlhu (rs0 rs1 rd : Reg) (cnd : Cond) : FixedBits.Statement (.mlhu rs0 rs1 rd cnd) :=
  FixedBits.of_row 8 _ rfl (Format.tri_fixed ..)
theorem FixedBits.mlhs (rs0 rs1 rd : Reg) (cnd : Cond) : FixedBits.Statement (.mlhs rs0 rs1 rd cnd) :=
  FixedBits.of_row 9 _ rfl (Format.tri_fixed ..)
theorem FixedBits.moveDual (rs rd : Reg) (cnd : Cond) : FixedBits.Statement (.moveDual rs rd cnd) :=
  FixedBits.of_row 10 _ rfl (Format.dual_fixed ..)
theorem FixedBits.negt (rs rd : Reg) (cnd : Cond) : FixedBits.Statement (.negt rs rd cnd) :=
  FixedBits.of_row 11 _ rfl (Format.dual_fixed ..)
theorem FixedBits.absl (rs rd : Reg) (cnd : Cond) : FixedBits.Statement (.absl rs rd cnd) :=
  FixedBits.of_row 12 _ rfl (Format.dual_fixed ..)
theorem FixedBits.invt (rs rd : Reg) (cnd : Cond) : FixedBits.Statement (.invt rs rd cnd) :=
  FixedBits.of_row 13 _ rfl (Format.dual_fixed ..)
theorem FixedBits.clzr (rs rd : Reg) (cnd : Cond) : FixedBits.Statement (.clzr rs rd cnd) :=
  FixedBits.of_row 14 _ rfl (Format.dual_fixed ..)
theorem FixedBits.ibos (rs rd : Reg) (cnd : Cond) : FixedBits.Statement (.ibos rs rd cnd) :=
  FixedBits.of_row 15 _ rfl (Format.dual_fixed ..)
theorem FixedBits.ibol (rs rd : Reg) (cnd : Cond) : FixedBits.Statement (.ibol rs rd cnd) :=
  FixedBits.of_row 16 _ rfl (Format.dual_fixed ..)
theorem FixedBits.shlzK5 (k : BitVec 5) (rs1 rd : Reg) (cnd : Cond) : FixedBits.Statement (.shlzK5 k rs1 rd cnd) :=
  FixedBits.of_row 17 _ rfl (Format.k5_fixed ..)
theorem FixedBits.shlzTri (rs0 rs1 rd : Reg) (cnd : Cond) : FixedBits.Statement (.shlzTri rs0 rs1 rd cnd) :=
  FixedBits.of_row 18 _ rfl (Format.tri_fixed ..)
theorem FixedBits.shruK5 (k : BitVec 5) (rs1 rd : Reg) (cnd : Cond) : FixedBits.Statement (.shruK5 k rs1 rd cnd) :=
  FixedBits.of_row 19 _ rfl (Format.k5_fixed ..)
theorem FixedBits.shruTri (rs0 rs1 rd : Reg) (cnd : Cond) : FixedBits.Statement (.shruTri rs0 rs1 rd cnd) :=
  FixedBits.of_row 20 _ rfl (Format.tri_fixed ..)
theorem FixedBits.shlfK5 (k : BitVec 5) (rs1 rd : Reg) (cnd : Cond) : FixedBits.Statement (.shlfK5 k rs1 rd cnd) :=
  FixedBits.of_row 21 _ rfl (Format.k5_fixed ..)
theorem FixedBits.shlfTri (rs0 rs1 rd : Reg) (cnd : Cond) : FixedBits.Statement (.shlfTri rs0 rs1 rd cnd) :=
  FixedBits.of_row 22 _ rfl (Format.tri_fixed ..)
theorem FixedBits.shrsK5 (k : BitVec 5) (rs1 rd : Reg) (cnd : Cond) : FixedBits.Statement (.shrsK5 k rs1 rd cnd) :=
  FixedBits.of_row 23 _ rfl (Format.k5_fixed ..)
theorem FixedBits.shrsTri (rs0 rs1 rd : Reg) (cnd : Cond) : FixedBits.Statement (.shrsTri rs0 rs1 rd cnd) :=
  FixedBits.of_row 24 _ rfl (Format.tri_fixed ..)
theorem FixedBits.btclK5 (k : BitVec 5) (rs1 rd : Reg) (cnd : Cond) : FixedBits.Statement (.btclK5 k rs1 rd cnd) :=
  FixedBits.of_row 25 _ rfl (Format.k5_fixed ..)
theorem FixedBits.btclTri (rs0 rs1 rd : Reg) (cnd : Cond) : FixedBits.Statement (.btclTri rs0 rs1 rd cnd) :=
  FixedBits.of_row 26 _ rfl (Format.tri_fixed ..)
theorem FixedBits.btstK5 (k : BitVec 5) (rs1 rd : Reg) (cnd : Cond) : FixedBits.Statement (.btstK5 k rs1 rd cnd) :=
  FixedBits.of_row 27 _ rfl (Format.k5_fixed ..)
theorem FixedBits.btstTri (rs0 rs1 rd : Reg) (cnd : Cond) : FixedBits.Statement (.btstTri rs0 rs1 rd cnd) :=
  FixedBits.of_row 28 _ rfl (Format.tri_fixed ..)
theorem FixedBits.bttgK5 (k : BitVec 5) (rs1 rd : Reg) (cnd : Cond) : FixedBits.Statement (.bttgK5 k rs1 rd cnd) :=
  FixedBits.of_row 29 _ rfl (Format.k5_fixed ..)
theorem FixedBits.bttgTri (rs0 rs1 rd : Reg) (cnd : Cond) : FixedBits.Statement (.bttgTri rs0 rs1 rd cnd) :=
  FixedBits.of_row 30 _ rfl (Format.tri_fixed ..)
theorem FixedBits.bttsK5t (k : BitVec 5) (rs1 : Reg) (cnd : Cond) : FixedBits.Statement (.bttsK5t k rs1 cnd) :=
  FixedBits.of_row 31 _ rfl (Format.k5t_fixed ..)
theorem FixedBits.bttsTrit (rs0 rs1 : Reg) (cnd : Cond) : FixedBits.Statement (.bttsTrit rs0 rs1 cnd) :=
  FixedBits.of_row 32 _ rfl (Format.trit_fixed ..)
theorem FixedBits.compCmpr (rs0 rs1 : Reg) : FixedBits.Statement (.compCmpr rs0 rs1) :=
  FixedBits.of_row 33 _ rfl (Format.cmpr_fixed ..)
theorem FixedBits.cmpcCmpr (rs0 rs1 : Reg) : FixedBits.Statement (.cmpcCmpr rs0 rs1) :=
  FixedBits.of_row 34 _ rfl (Format.cmpr_fixed ..)
theorem FixedBits.mtdp (rs : Reg) : FixedBits.Statement (.mtdp rs) :=
  FixedBits.of_row 35 _ rfl (Format.dps_fixed ..)
theorem FixedBits.mfdp (rd : Reg) : FixedBits.Statement (.mfdp rd) :=
  FixedBits.of_row 36 _ rfl (Format.dpd_fixed ..)
theorem FixedBits.subfK12 (c : BitVec 12) (rs1 rd : Reg) (cnd : Cond) : FixedBits.Statement (.subfK12 c rs1 rd cnd) :=
  FixedBits.of_row 37 _ rfl (Format.k12_fixed ..)
theorem FixedBits.addtK12 (c : BitVec 12) (rs1 rd : Reg) (cnd : Cond) : FixedBits.Statement (.addtK12 c rs1 rd cnd) :=
  FixedBits.of_row 38 _ rfl (Format.k12_fixed ..)
theorem FixedBits.subcK12 (c : BitVec 12) (rs1 rd : Reg) (cnd : Cond) : FixedBits.Statement (.subcK12 c rs1 rd cnd) :=
  FixedBits.of_row 39 _ rfl (Format.k12_fixed ..)
theorem FixedBits.addcK12 (c : BitVec 12) (rs1 rd : Reg) (cnd : Cond) : FixedBits.Statement (.addcK12 c rs1 rd cnd) :=
  FixedBits.of_row 40 _ rfl (Format.k12_fixed ..)
theorem FixedBits.moveK17m (c : BitVec 17) (rd : Reg) (cnd : Cond) : FixedBits.Statement (.moveK17m c rd cnd) :=
  FixedBits.of_row 41 _ rfl (Format.k17m_fixed ..)
theorem FixedBits.subfK16 (c : BitVec 16) (rs1 rd : Reg) : FixedBits.Statement (.subfK16 c rs1 rd) :=
  FixedBits.of_row 42 _ rfl (Format.k16_fixed ..)
theorem FixedBits.addtK16 (c : BitVec 16) (rs1 rd : Reg) : FixedBits.Statement (.addtK16 c rs1 rd) :=
  FixedBits.of_row 43 _ rfl (Format.k16_fixed ..)
theorem FixedBits.andbK16 (c : BitVec 16) (rs1 rd : Reg) : FixedBits.Statement (.andbK16 c rs1 rd) :=
  FixedBits.of_row 44 _ rfl (Format.k16_fixed ..)
theorem FixedBits.iorbK16 (c : BitVec 16) (rs1 rd : Reg) : FixedBits.Statement (.iorbK16 c rs1 rd) :=
  FixedBits.of_row 45 _ rfl (Format.k16_fixed ..)
theorem FixedBits.xorbK16 (c : BitVec 16) (rs1 rd : Reg) : FixedBits.Statement (.xorbK16 c rs1 rd) :=
  FixedBits.of_row 46 _ rfl (Format.k16_fixed ..)
theorem FixedBits.addh (hi : BitVec 16) (rs1 rd : Reg) : FixedBits.Statement (.addh hi rs1 rd) :=
  FixedBits.of_row 47 _ rfl (Format.k16_fixed ..)
theorem FixedBits.mlcu (c : BitVec 16) (rs1 rd : Reg) : FixedBits.Statement (.mlcu c rs1 rd) :=
  FixedBits.of_row 48 _ rfl (Format.k16_fixed ..)
theorem FixedBits.mlcs (c : BitVec 16) (rs1 rd : Reg) : FixedBits.Statement (.mlcs c rs1 rd) :=
  FixedBits.of_row 49 _ rfl (Format.k16_fixed ..)
theorem FixedBits.compK17c (c : BitVec 17) (rs1 : Reg) : FixedBits.Statement (.compK17c c rs1) :=
  FixedBits.of_row 50 _ rfl (Format.k17c_fixed ..)
theorem FixedBits.cmpcK17c (c : BitVec 17) (rs1 : Reg) : FixedBits.Statement (.cmpcK17c c rs1) :=
  FixedBits.of_row 51 _ rfl (Format.k17c_fixed ..)
theorem FixedBits.ldbzLsd (da : BitVec 16) (rd : Reg) (cnd : Cond) : FixedBits.Statement (.ldbzLsd da rd cnd) :=
  FixedBits.of_row 52 _ rfl (Format.lsd_fixed ..)
theorem FixedBits.ldbzLso (dof : BitVec 12) (an : AReg) (rd : Reg) (cnd : Cond) : FixedBits.Statement (.ldbzLso dof an rd cnd) :=
  FixedBits.of_row 53 _ rfl (Format.lso_fixed ..)
theorem FixedBits.ldbzLsu (an : AReg) (au : BitVec 12) (rd : Reg) (cnd : Cond) : FixedBits.Statement (.ldbzLsu an au rd cnd) :=
  FixedBits.of_row 54 _ rfl (Format.lsu_fixed ..)
theorem FixedBits.ldbzLsr (an : AReg) (ru rd : Reg) (cnd : Cond) : FixedBits.Statement (.ldbzLsr an ru rd cnd) :=
  FixedBits.of_row 55 _ rfl (Format.lsr_fixed ..)
theorem FixedBits.ldbzLsx (rx : Reg) (an : AReg) (rd : Reg) (cnd : Cond) : FixedBits.Statement (.ldbzLsx rx an rd cnd) :=
  FixedBits.of_row 56 _ rfl (Format.lsx_fixed ..)
theorem FixedBits.ldbzRgsi (an : AReg) (sel : RegSel) : FixedBits.Statement (.ldbzRgsi an sel) :=
  FixedBits.of_row 57 _ rfl (Format.rgsUp_fixed ..)
theorem FixedBits.ldbzRgsd (an : AReg) (sel : RegSel) : FixedBits.Statement (.ldbzRgsd an sel) :=
  FixedBits.of_row 58 _ rfl (Format.rgsDown_fixed ..)
theorem FixedBits.ldbsLsd (da : BitVec 16) (rd : Reg) (cnd : Cond) : FixedBits.Statement (.ldbsLsd da rd cnd) :=
  FixedBits.of_row 59 _ rfl (Format.lsd_fixed ..)
theorem FixedBits.ldbsLso (dof : BitVec 12) (an : AReg) (rd : Reg) (cnd : Cond) : FixedBits.Statement (.ldbsLso dof an rd cnd) :=
  FixedBits.of_row 60 _ rfl (Format.lso_fixed ..)
theorem FixedBits.ldbsLsu (an : AReg) (au : BitVec 12) (rd : Reg) (cnd : Cond) : FixedBits.Statement (.ldbsLsu an au rd cnd) :=
  FixedBits.of_row 61 _ rfl (Format.lsu_fixed ..)
theorem FixedBits.ldbsLsr (an : AReg) (ru rd : Reg) (cnd : Cond) : FixedBits.Statement (.ldbsLsr an ru rd cnd) :=
  FixedBits.of_row 62 _ rfl (Format.lsr_fixed ..)
theorem FixedBits.ldbsLsx (rx : Reg) (an : AReg) (rd : Reg) (cnd : Cond) : FixedBits.Statement (.ldbsLsx rx an rd cnd) :=
  FixedBits.of_row 63 _ rfl (Format.lsx_fixed ..)
theorem FixedBits.ldbsRgsi (an : AReg) (sel : RegSel) : FixedBits.Statement (.ldbsRgsi an sel) :=
  FixedBits.of_row 64 _ rfl (Format.rgsUp_fixed ..)
theorem FixedBits.ldbsRgsd (an : AReg) (sel : RegSel) : FixedBits.Statement (.ldbsRgsd an sel) :=
  FixedBits.of_row 65 _ rfl (Format.rgsDown_fixed ..)
theorem FixedBits.ldszLsd (da : BitVec 16) (rd : Reg) (cnd : Cond) : FixedBits.Statement (.ldszLsd da rd cnd) :=
  FixedBits.of_row 66 _ rfl (Format.lsd_fixed ..)
theorem FixedBits.ldszLso (dof : BitVec 12) (an : AReg) (rd : Reg) (cnd : Cond) : FixedBits.Statement (.ldszLso dof an rd cnd) :=
  FixedBits.of_row 67 _ rfl (Format.lso_fixed ..)
theorem FixedBits.ldszLsu (an : AReg) (au : BitVec 12) (rd : Reg) (cnd : Cond) : FixedBits.Statement (.ldszLsu an au rd cnd) :=
  FixedBits.of_row 68 _ rfl (Format.lsu_fixed ..)
theorem FixedBits.ldszLsr (an : AReg) (ru rd : Reg) (cnd : Cond) : FixedBits.Statement (.ldszLsr an ru rd cnd) :=
  FixedBits.of_row 69 _ rfl (Format.lsr_fixed ..)
theorem FixedBits.ldszLsx (rx : Reg) (an : AReg) (rd : Reg) (cnd : Cond) : FixedBits.Statement (.ldszLsx rx an rd cnd) :=
  FixedBits.of_row 70 _ rfl (Format.lsx_fixed ..)
theorem FixedBits.ldszRgsi (an : AReg) (sel : RegSel) : FixedBits.Statement (.ldszRgsi an sel) :=
  FixedBits.of_row 71 _ rfl (Format.rgsUp_fixed ..)
theorem FixedBits.ldszRgsd (an : AReg) (sel : RegSel) : FixedBits.Statement (.ldszRgsd an sel) :=
  FixedBits.of_row 72 _ rfl (Format.rgsDown_fixed ..)
theorem FixedBits.ldssLsd (da : BitVec 16) (rd : Reg) (cnd : Cond) : FixedBits.Statement (.ldssLsd da rd cnd) :=
  FixedBits.of_row 73 _ rfl (Format.lsd_fixed ..)
theorem FixedBits.ldssLso (dof : BitVec 12) (an : AReg) (rd : Reg) (cnd : Cond) : FixedBits.Statement (.ldssLso dof an rd cnd) :=
  FixedBits.of_row 74 _ rfl (Format.lso_fixed ..)
theorem FixedBits.ldssLsu (an : AReg) (au : BitVec 12) (rd : Reg) (cnd : Cond) : FixedBits.Statement (.ldssLsu an au rd cnd) :=
  FixedBits.of_row 75 _ rfl (Format.lsu_fixed ..)
theorem FixedBits.ldssLsr (an : AReg) (ru rd : Reg) (cnd : Cond) : FixedBits.Statement (.ldssLsr an ru rd cnd) :=
  FixedBits.of_row 76 _ rfl (Format.lsr_fixed ..)
theorem FixedBits.ldssLsx (rx : Reg) (an : AReg) (rd : Reg) (cnd : Cond) : FixedBits.Statement (.ldssLsx rx an rd cnd) :=
  FixedBits.of_row 77 _ rfl (Format.lsx_fixed ..)
theorem FixedBits.ldssRgsi (an : AReg) (sel : RegSel) : FixedBits.Statement (.ldssRgsi an sel) :=
  FixedBits.of_row 78 _ rfl (Format.rgsUp_fixed ..)
theorem FixedBits.ldssRgsd (an : AReg) (sel : RegSel) : FixedBits.Statement (.ldssRgsd an sel) :=
  FixedBits.of_row 79 _ rfl (Format.rgsDown_fixed ..)
theorem FixedBits.ldlgLsd (da : BitVec 16) (rd : Reg) (cnd : Cond) : FixedBits.Statement (.ldlgLsd da rd cnd) :=
  FixedBits.of_row 80 _ rfl (Format.lsd_fixed ..)
theorem FixedBits.ldlgLso (dof : BitVec 12) (an : AReg) (rd : Reg) (cnd : Cond) : FixedBits.Statement (.ldlgLso dof an rd cnd) :=
  FixedBits.of_row 81 _ rfl (Format.lso_fixed ..)
theorem FixedBits.ldlgLsu (an : AReg) (au : BitVec 12) (rd : Reg) (cnd : Cond) : FixedBits.Statement (.ldlgLsu an au rd cnd) :=
  FixedBits.of_row 82 _ rfl (Format.lsu_fixed ..)
theorem FixedBits.ldlgLsr (an : AReg) (ru rd : Reg) (cnd : Cond) : FixedBits.Statement (.ldlgLsr an ru rd cnd) :=
  FixedBits.of_row 83 _ rfl (Format.lsr_fixed ..)
theorem FixedBits.ldlgLsx (rx : Reg) (an : AReg) (rd : Reg) (cnd : Cond) : FixedBits.Statement (.ldlgLsx rx an rd cnd) :=
  FixedBits.of_row 84 _ rfl (Format.lsx_fixed ..)
theorem FixedBits.ldlgRgsi (an : AReg) (sel : RegSel) : FixedBits.Statement (.ldlgRgsi an sel) :=
  FixedBits.of_row 85 _ rfl (Format.rgsUp_fixed ..)
theorem FixedBits.ldlgRgsd (an : AReg) (sel : RegSel) : FixedBits.Statement (.ldlgRgsd an sel) :=
  FixedBits.of_row 86 _ rfl (Format.rgsDown_fixed ..)
theorem FixedBits.stbtLsd (rs : Reg) (da : BitVec 16) (cnd : Cond) : FixedBits.Statement (.stbtLsd rs da cnd) :=
  FixedBits.of_row 87 _ rfl (Format.lsd_fixed ..)
theorem FixedBits.stbtLso (rs : Reg) (dof : BitVec 12) (an : AReg) (cnd : Cond) : FixedBits.Statement (.stbtLso rs dof an cnd) :=
  FixedBits.of_row 88 _ rfl (Format.lso_fixed ..)
theorem FixedBits.stbtLsu (rs : Reg) (an : AReg) (au : BitVec 12) (cnd : Cond) : FixedBits.Statement (.stbtLsu rs an au cnd) :=
  FixedBits.of_row 89 _ rfl (Format.lsu_fixed ..)
theorem FixedBits.stbtLsr (rs : Reg) (an : AReg) (ru : Reg) (cnd : Cond) : FixedBits.Statement (.stbtLsr rs an ru cnd) :=
  FixedBits.of_row 90 _ rfl (Format.lsr_fixed ..)
theorem FixedBits.stbtLsx (rs rx : Reg) (an : AReg) (cnd : Cond) : FixedBits.Statement (.stbtLsx rs rx an cnd) :=
  FixedBits.of_row 91 _ rfl (Format.lsx_fixed ..)
theorem FixedBits.stbtRgsi (sel : RegSel) (an : AReg) : FixedBits.Statement (.stbtRgsi sel an) :=
  FixedBits.of_row 92 _ rfl (Format.rgsUp_fixed ..)
theorem FixedBits.stbtRgsd (sel : RegSel) (an : AReg) : FixedBits.Statement (.stbtRgsd sel an) :=
  FixedBits.of_row 93 _ rfl (Format.rgsDown_fixed ..)
theorem FixedBits.stlgLsd (rs : Reg) (da : BitVec 16) (cnd : Cond) : FixedBits.Statement (.stlgLsd rs da cnd) :=
  FixedBits.of_row 94 _ rfl (Format.lsd_fixed ..)
theorem FixedBits.stlgLso (rs : Reg) (dof : BitVec 12) (an : AReg) (cnd : Cond) : FixedBits.Statement (.stlgLso rs dof an cnd) :=
  FixedBits.of_row 95 _ rfl (Format.lso_fixed ..)
theorem FixedBits.stlgLsu (rs : Reg) (an : AReg) (au : BitVec 12) (cnd : Cond) : FixedBits.Statement (.stlgLsu rs an au cnd) :=
  FixedBits.of_row 96 _ rfl (Format.lsu_fixed ..)
theorem FixedBits.stlgLsr (rs : Reg) (an : AReg) (ru : Reg) (cnd : Cond) : FixedBits.Statement (.stlgLsr rs an ru cnd) :=
  FixedBits.of_row 97 _ rfl (Format.lsr_fixed ..)
theorem FixedBits.stlgLsx (rs rx : Reg) (an : AReg) (cnd : Cond) : FixedBits.Statement (.stlgLsx rs rx an cnd) :=
  FixedBits.of_row 98 _ rfl (Format.lsx_fixed ..)
theorem FixedBits.stlgRgsi (sel : RegSel) (an : AReg) : FixedBits.Statement (.stlgRgsi sel an) :=
  FixedBits.of_row 99 _ rfl (Format.rgsUp_fixed ..)
theorem FixedBits.stlgRgsd (sel : RegSel) (an : AReg) : FixedBits.Statement (.stlgRgsd sel an) :=
  FixedBits.of_row 100 _ rfl (Format.rgsDown_fixed ..)
theorem FixedBits.stshLsd (rs : Reg) (da : BitVec 16) (cnd : Cond) : FixedBits.Statement (.stshLsd rs da cnd) :=
  FixedBits.of_row 101 _ rfl (Format.lsd_fixed ..)
theorem FixedBits.stshLso (rs : Reg) (dof : BitVec 12) (an : AReg) (cnd : Cond) : FixedBits.Statement (.stshLso rs dof an cnd) :=
  FixedBits.of_row 102 _ rfl (Format.lso_fixed ..)
theorem FixedBits.stshLsu (rs : Reg) (an : AReg) (au : BitVec 12) (cnd : Cond) : FixedBits.Statement (.stshLsu rs an au cnd) :=
  FixedBits.of_row 103 _ rfl (Format.lsu_fixed ..)
theorem FixedBits.stshLsr (rs : Reg) (an : AReg) (ru : Reg) (cnd : Cond) : FixedBits.Statement (.stshLsr rs an ru cnd) :=
  FixedBits.of_row 104 _ rfl (Format.lsr_fixed ..)
theorem FixedBits.stshLsx (rs rx : Reg) (an : AReg) (cnd : Cond) : FixedBits.Statement (.stshLsx rs rx an cnd) :=
  FixedBits.of_row 105 _ rfl (Format.lsx_fixed ..)
theorem FixedBits.stshRgsi (sel : RegSel) (an : AReg) : FixedBits.Statement (.stshRgsi sel an) :=
  FixedBits.of_row 106 _ rfl (Format.rgsUp_fixed ..)
theorem FixedBits.stshRgsd (sel : RegSel) (an : AReg) : FixedBits.Statement (.stshRgsd sel an) :=
  FixedBits.of_row 107 _ rfl (Format.rgsDown_fixed ..)
theorem FixedBits.brnc (off : BitVec 14) (hint : Bool) : FixedBits.Statement (.brnc off hint) :=
  FixedBits.of_row 108 _ rfl (Format.br_fixed ..)
theorem FixedBits.brcr (off : BitVec 14) (hint : Bool) : FixedBits.Statement (.brcr off hint) :=
  FixedBits.of_row 109 _ rfl (Format.br_fixed ..)
theorem FixedBits.brno (off : BitVec 14) (hint : Bool) : FixedBits.Statement (.brno off hint) :=
  FixedBits.of_row 110 _ rfl (Format.br_fixed ..)
theorem FixedBits.brof (off : BitVec 14) (hint : Bool) : FixedBits.Statement (.brof off hint) :=
  FixedBits.of_row 111 _ rfl (Format.br_fixed ..)
theorem FixedBits.brnz (off : BitVec 14) (hint : Bool) : FixedBits.Statement (.brnz off hint) :=
  FixedBits.of_row 112 _ rfl (Format.br_fixed ..)
theorem FixedBits.brzr (off : BitVec 14) (hint : Bool) : FixedBits.Statement (.brzr off hint) :=
  FixedBits.of_row 113 _ rfl (Format.br_fixed ..)
theorem FixedBits.brps (off : BitVec 14) (hint : Bool) : FixedBits.Statement (.brps off hint) :=
  FixedBits.of_row 114 _ rfl (Format.br_fixed ..)
theorem FixedBits.brng (off : BitVec 14) (hint : Bool) : FixedBits.Statement (.brng off hint) :=
  FixedBits.of_row 115 _ rfl (Format.br_fixed ..)
theorem FixedBits.brls (off : BitVec 14) (hint : Bool) : FixedBits.Statement (.brls off hint) :=
  FixedBits.of_row 116 _ rfl (Format.br_fixed ..)
theorem FixedBits.brhi (off : BitVec 14) (hint : Bool) : FixedBits.Statement (.brhi off hint) :=
  FixedBits.of_row 117 _ rfl (Format.br_fixed ..)
theorem FixedBits.brlo (off : BitVec 14) (hint : Bool) : FixedBits.Statement (.brlo off hint) :=
  FixedBits.of_row 118 _ rfl (Format.br_fixed ..)
theorem FixedBits.brge (off : BitVec 14) (hint : Bool) : FixedBits.Statement (.brge off hint) :=
  FixedBits.of_row 119 _ rfl (Format.br_fixed ..)
theorem FixedBits.brle (off : BitVec 14) (hint : Bool) : FixedBits.Statement (.brle off hint) :=
  FixedBits.of_row 120 _ rfl (Format.br_fixed ..)
theorem FixedBits.brgt (off : BitVec 14) (hint : Bool) : FixedBits.Statement (.brgt off hint) :=
  FixedBits.of_row 121 _ rfl (Format.br_fixed ..)
/-- brlc has no S flag: its row fixes bit 9 as well (30_encoding.md R102). -/
theorem Format.br_fixed_false (k : BitVec 4) (off : BitVec 14) :
    Format.br k off false &&& 0xFF0003FF#32 = 0#23 ++ 1#1 ++ k ++ 0b0110#4 := by
  apply BitVec.eq_of_getLsbD_eq; intro i hi
  simp only [Format.br, BitVec.getLsbD_and, BitVec.getLsbD_append]
  interval_cases i <;> simp

theorem FixedBits.brlc (off : BitVec 14) : FixedBits.Statement (.brlc off) :=
  FixedBits.of_row 122 _ rfl (Format.br_fixed_false ..)
theorem FixedBits.jumpImp : FixedBits.Statement (.jumpImp) :=
  FixedBits.of_row 123 _ rfl (Format.imp_fixed ..)
theorem FixedBits.jpsrImp : FixedBits.Statement (.jpsrImp) :=
  FixedBits.of_row 124 _ rfl (Format.imp_fixed ..)
theorem FixedBits.rtsr : FixedBits.Statement (.rtsr) :=
  FixedBits.of_row 125 _ rfl (Format.imp_fixed ..)
theorem FixedBits.rtir : FixedBits.Statement (.rtir) :=
  FixedBits.of_row 126 _ rfl (Format.imp_fixed ..)
theorem FixedBits.stop : FixedBits.Statement (.stop) :=
  FixedBits.of_row 127 _ rfl (Format.imp_fixed ..)
theorem FixedBits.svpc : FixedBits.Statement (.svpc) :=
  FixedBits.of_row 128 _ rfl (Format.imp_fixed ..)
theorem FixedBits.rspc : FixedBits.Statement (.rspc) :=
  FixedBits.of_row 129 _ rfl (Format.imp_fixed ..)
theorem FixedBits.stie : FixedBits.Statement (.stie) :=
  FixedBits.of_row 130 _ rfl (Format.imp_fixed ..)
theorem FixedBits.clie : FixedBits.Statement (.clie) :=
  FixedBits.of_row 131 _ rfl (Format.imp_fixed ..)
theorem FixedBits.rsie : FixedBits.Statement (.rsie) :=
  FixedBits.of_row 132 _ rfl (Format.imp_fixed ..)
theorem FixedBits.scie : FixedBits.Statement (.scie) :=
  FixedBits.of_row 133 _ rfl (Format.imp_fixed ..)
theorem FixedBits.jumpJa (ia : BitVec 27) : FixedBits.Statement (.jumpJa ia) :=
  FixedBits.of_row 134 _ rfl (Format.ja_fixed ..)
theorem FixedBits.jpsrJa (ia : BitVec 27) : FixedBits.Statement (.jpsrJa ia) :=
  FixedBits.of_row 135 _ rfl (Format.ja_fixed ..)

end Sys2Proof.Laws
end

