-- ==== Sys2Proof/Laws/Selection.lean ====
section
/-! SUPPORT. What the element loops of the RGS loads and stores do, said once (41_load_store.md R173, R174). -/

namespace Sys2Proof.Machine

/-! ### The transfer orders -/

theorem RegSel.order_nodup : RegSel.order.Nodup := by decide

theorem RegSel.registers_nodup (sel : RegSel) : (RegSel.registers sel).Nodup := RegSel.order_nodup.filter _

theorem RgsMode.order_nodup (d : RgsMode) (sel : RegSel) : (d.order sel).Nodup := by
  cases d
  · exact RegSel.registers_nodup sel
  · exact List.nodup_reverse.2 (RegSel.registers_nodup sel)

theorem RgsMode.mem_order (d : RgsMode) (sel : RegSel) (r : Reg) :
    r ∈ d.order sel ↔ r ∈ RegSel.order ∧ RegSel.holds sel r = true := by
  cases d <;> simp [RgsMode.order, RegSel.registers]

theorem RegSel.mem_order_of_holds (sel : RegSel) (r : Reg) (h : RegSel.holds sel r = true) : r ∈ RegSel.order := by
  cases r with
  | gpr n =>
    revert h; revert n; unfold RegSel.holds RegSel.position
    intro n; fin_cases n <;> simp [RegSel.order]
  | _ => first | decide | simp [RegSel.holds, RegSel.position] at h

/-- The transfer order holds exactly the selected registers. -/
theorem RgsMode.mem_order_iff (d : RgsMode) (sel : RegSel) (r : Reg) :
    r ∈ d.order sel ↔ RegSel.holds sel r = true := by
  rw [RgsMode.mem_order]
  exact ⟨fun h => h.2, fun h => ⟨RegSel.mem_order_of_holds sel r h, h⟩⟩

theorem RgsMode.cs_notMem_order (d : RgsMode) (sel : RegSel) : Reg.cs ∉ d.order sel := by
  rw [RgsMode.mem_order_iff]; simp [RegSel.holds, RegSel.position]

theorem RgsMode.order_length (d : RgsMode) (sel : RegSel) : (d.order sel).length ≤ 19 := by
  cases d <;> simp only [RgsMode.order, List.length_reverse] <;> exact List.length_filter_le _ RegSel.order

theorem RgsMode.transfers_fst (d : RgsMode) (z : Size) (an : AReg) (sel : RegSel) (s : State) :
    (d.transfers z an sel s).map Prod.fst = d.order sel := by
  simp [RgsMode.transfers, Function.comp_def]

theorem RgsMode.transfers_snd (d : RgsMode) (z : Size) (an : AReg) (sel : RegSel) (s : State) :
    (d.transfers z an sel s).map Prod.snd =
      (List.range (d.order sel).length).map (d.eda z (s.readReg an.reg)) := by
  apply List.ext_getElem <;> simp [RgsMode.transfers]

theorem RgsMode.mem_transfers (d : RgsMode) (z : Size) (an : AReg) (sel : RegSel) (s : State) (i : Nat)
    (h : i < (d.order sel).length) :
    ((d.order sel)[i], d.eda z (s.readReg an.reg) i) ∈ d.transfers z an sel s := by
  have : (d.transfers z an sel s)[i]'(by simp [RgsMode.transfers, h]) = ((d.order sel)[i], d.eda z (s.readReg an.reg) i) := by
    simp [RgsMode.transfers]
  exact this ▸ List.getElem_mem _

theorem RgsMode.mem_transfers_iff (d : RgsMode) (z : Size) (an : AReg) (sel : RegSel) (s : State) (t : Reg × Word) :
    t ∈ d.transfers z an sel s ↔
      ∃ i, ∃ h : i < (d.order sel).length, t = ((d.order sel)[i], d.eda z (s.readReg an.reg) i) := by
  constructor
  · intro h
    obtain ⟨i, hi, rfl⟩ := List.getElem_of_mem h
    have hi' : i < (d.order sel).length := by simpa [RgsMode.transfers] using hi
    exact ⟨i, hi', by simp [RgsMode.transfers]⟩
  · rintro ⟨i, h, rfl⟩; exact d.mem_transfers z an sel s i h

/-- An RGS access stops exactly where one of its element accesses stops. -/
theorem State.transferStop_eq_none (s : State) (write : Bool) (z : Size) (d : RgsMode) (an : AReg) (sel : RegSel) :
    s.transferStop write z (d.transfers z an sel s) = none ↔
      ∀ i, i < (d.order sel).length → s.accessStop write (d.eda z (s.readReg an.reg) i) z = none := by
  simp only [State.transferStop, List.findSome?_eq_none_iff, RgsMode.mem_transfers_iff]
  constructor
  · intro h i hi; exact h _ ⟨i, hi, rfl⟩
  · rintro h t ⟨i, hi, rfl⟩; exact h i hi

/-! ### The loop of a load -/

/-- What an RGS load leaves alone before it updates An: everything but registers, the bus trace and the counter of free
values. -/
theorem State.loadElements_frame (k : LoadKind) (ts : List (Reg × Word)) (s : State) :
    let t := ts.foldl (State.loadElement k) s
    KeepsRest { s with draws := t.draws } t ∧ t.dmem = s.dmem ∧ t.imem = s.imem ∧ t.pc = s.pc := by
  induction ts generalizing s with
  | nil => exact ⟨⟨rfl, rfl, rfl, rfl, rfl, rfl, rfl, rfl, rfl, rfl, rfl⟩, rfl, rfl, rfl⟩
  | cons p ts ih =>
    obtain ⟨h, h1, h2, h3⟩ := ih (State.loadElement k s p)
    refine ⟨⟨h.hcc.trans ?_, h.hccSaved.trans ?_, h.stopped.trans ?_, h.strqSeen.trans ?_, h.lia.trans ?_,
      h.dbo.trans ?_, h.iack.trans ?_, h.inputs.trans ?_, h.dbi.trans ?_, rfl, h.params.trans ?_⟩,
      h1.trans ?_, h2.trans ?_, h3.trans ?_⟩ <;> simp [State.loadElement]

/-- An RGS load that reaches no device draws no free value. -/
theorem State.loadElements_draws (k : LoadKind) (ts : List (Reg × Word)) (s : State)
    (h : ∀ p ∈ ts, s.NoDevice p.2 k.size) : (ts.foldl (State.loadElement k) s).draws = s.draws := by
  induction ts generalizing s with
  | nil => rfl
  | cons p ts ih =>
    have hr : ∀ a, (State.loadElement k s p).regionAt a = s.regionAt a := fun a =>
      State.regionAt_congr _ _ (by simp [State.loadElement]) a
    refine (ih _ fun q hq a ha => ?_).trans ?_
    · rw [hr]; exact h q (List.mem_cons_of_mem _ hq) a ha
    · simp only [State.loadElement, writeReg_draws]
      rw [State.afterRead_draws _ _ _ fun a ha => ?_, signal_draws]
      rw [State.regionAt_congr s (s.signal _) rfl]
      exact h p List.mem_cons_self a ha

theorem State.readReg_loadElement_other (k : LoadKind) (s : State) (t : Reg × Word) (r : Reg) (h : r ≠ t.1) :
    (State.loadElement k s t).readReg r = s.readReg r := by
  unfold State.loadElement
  rw [State.readReg_writeReg_other _ _ _ _ h, readReg_afterRead, readReg_signal]

/-- A register that is none of those loaded reads as before. -/
theorem State.loadElements_other (k : LoadKind) (ts : List (Reg × Word)) (s : State) (r : Reg)
    (h : r ∉ ts.map Prod.fst) : (ts.foldl (State.loadElement k) s).readReg r = s.readReg r := by
  induction ts generalizing s with
  | nil => rfl
  | cons p ts ih =>
    rw [List.map_cons, List.mem_cons, not_or] at h
    exact (ih _ h.2).trans (State.readReg_loadElement_other k s p r h.1)

/-- A value loaded later in the loop is the value loaded now, but for the counter of free values. -/
theorem State.loadValue_loadElement (k j : LoadKind) (s : State) (t : Reg × Word) (e : Word) (d : Nat) :
    ({ State.loadElement k s t with draws := d } : State).loadValue j e = ({ s with draws := d } : State).loadValue j e := by
  unfold State.loadValue
  rw [State.memRead_congr _ _ e j.size fun a _ => State.readByte_congr { s with draws := d }
    { State.loadElement k s t with draws := d } (by simp [State.loadElement]) rfl a
    (State.dataByte_congr _ _ (by simp [State.loadElement]) (by simp [State.loadElement]) (by simp [State.loadElement]) a)]

/-- Each loaded register receives the value at its own address; `d` matters only where that is a device. -/
theorem State.loadElements_get (k : LoadKind) (ts : List (Reg × Word)) (s : State) (h : (ts.map Prod.fst).Nodup)
    (p : Reg × Word) (hp : p ∈ ts) :
    ∃ d, (ts.foldl (State.loadElement k) s).readReg p.1 =
      writeView p.1 (s.readReg p.1) (({ s with draws := d } : State).loadValue k p.2) := by
  induction ts generalizing s with
  | nil => simp at hp
  | cons q ts ih =>
    rw [List.map_cons, List.nodup_cons] at h
    rw [List.foldl_cons]
    rcases List.mem_cons.1 hp with rfl | hm
    · refine ⟨s.draws, ?_⟩
      rw [State.loadElements_other k ts _ _ h.1]
      unfold State.loadElement
      rw [State.readReg_writeReg_self, readReg_afterRead, readReg_signal]
    · have hne : p.1 ≠ q.1 := fun e => h.1 (e ▸ List.mem_map_of_mem hm)
      obtain ⟨d, hd⟩ := ih (State.loadElement k s q) h.2 hm
      exact ⟨d, by rw [hd, State.readReg_loadElement_other k s q _ hne, State.loadValue_loadElement]⟩

/-- The accesses of an RGS load, in order. -/
theorem State.loadElements_bus (k : LoadKind) (ts : List (Reg × Word)) (s : State) (h : Reg.cs ∉ ts.map Prod.fst) :
    (ts.foldl (State.loadElement k) s).bus = s.bus ++ s.reads k.size (ts.map Prod.snd) := by
  induction ts generalizing s with
  | nil => simp [State.reads]
  | cons p ts ih =>
    rw [List.map_cons, List.mem_cons, not_or] at h
    have hcs : (State.loadElement k s p).cs.ir = s.cs.ir := by
      unfold State.loadElement
      cases hr : p.1 <;> simp_all [State.writeReg]
    rw [List.foldl_cons, ih _ h.2]
    simp only [State.reads, hcs]
    simp [State.loadElement, State.dataAccess, State.signal]

/-! ### The loop of a store -/

/-- The low bytes of a word, as the word below a power of two. -/
theorem Size.lowBytes_eq (z : Size) (v : Word) :
    z.lowBytes v = v &&& BitVec.ofNat 32 (2 ^ (8 * z.bytes) - 1) := by
  cases z with
  | long =>
    exact (BitVec.and_allOnes (x := v)).symm
  | _ => rfl

theorem State.storeElement_eq (src : State) (z : Size) (s : State) (t : Reg × Word) :
    State.storeElement src z s t =
      (s.memWrite t.2 z (src.readReg t.1)).signal (s.dataAccess (some (z.lowBytes (src.readReg t.1))) t.2 z) :=
  State.memWrite_signal _ _ _ _ _

/-- What an RGS store leaves alone before it updates An. -/
theorem State.storeElements_frame (src : State) (z : Size) (ts : List (Reg × Word)) (s : State) :
    let t := ts.foldl (State.storeElement src z) s
    KeepsRest s t ∧ (∀ r, t.readReg r = s.readReg r) ∧ t.cs = s.cs ∧ t.pc = s.pc := by
  induction ts generalizing s with
  | nil => exact ⟨⟨rfl, rfl, rfl, rfl, rfl, rfl, rfl, rfl, rfl, rfl, rfl⟩, fun _ => rfl, rfl, rfl⟩
  | cons p ts ih =>
    obtain ⟨h, h1, h2, h3⟩ := ih (State.storeElement src z s p)
    refine ⟨⟨h.hcc.trans ?_, h.hccSaved.trans ?_, h.stopped.trans ?_, h.strqSeen.trans ?_, h.lia.trans ?_,
      h.dbo.trans ?_, h.iack.trans ?_, h.inputs.trans ?_, h.dbi.trans ?_, h.draws.trans ?_, h.params.trans ?_⟩,
      fun r => (h1 r).trans ?_, h2.trans ?_, h3.trans ?_⟩ <;> simp [State.storeElement]

theorem State.storeElement_wf (src : State) (z : Size) (s : State) (t : Reg × Word) (h : Canonical s) :
    Canonical (State.storeElement src z s t) := by
  rw [State.storeElement_eq]
  have := State.memWrite_wf s t.2 z (src.readReg t.1) h.data h.code
  exact ⟨this.1, this.2⟩

/-- The stores keep both memories canonical. -/
theorem State.storeElements_wf (src : State) (z : Size) (ts : List (Reg × Word)) (s : State) (h : Canonical s) :
    Canonical (ts.foldl (State.storeElement src z) s) := by
  induction ts generalizing s with
  | nil => exact h
  | cons p ts ih => exact ih _ (State.storeElement_wf src z s p h)

/-- The stores leave every byte outside their own alone, and every byte that is not RAM. -/
theorem State.storeElements_other (src : State) (z : Size) (ts : List (Reg × Word)) (s : State) :
    KeepsMemoryBut s (ts.foldl (State.storeElement src z) s) z (ts.map Prod.snd) := by
  induction ts generalizing s with
  | nil => exact ⟨fun _ _ => rfl, fun _ _ => rfl⟩
  | cons p ts ih =>
    obtain ⟨h1, h2⟩ := ih (State.storeElement src z s p)
    rw [List.foldl_cons]
    have hp : (State.storeElement src z s p).params = s.params := by simp [State.storeElement]
    have hq := State.codeAddr?_congr _ _ hp
    have hr := State.regionAt_congr _ _ hp
    rw [List.map_cons]
    refine ⟨fun a ha => ?_, fun c hc => ?_⟩
    · rw [h1 a (by rw [hr]; exact fun h => (List.forall_mem_cons.1 (ha h)).2), State.storeElement_eq, dataByte_signal,
        State.dataByte_memWrite_other _ _ _ _ _ fun h => (List.forall_mem_cons.1 (ha h)).1]
    · rw [h2 c (by simpa only [hq, hr] using (List.forall_mem_cons.1 hc).2), State.storeElement_eq, signal_imem,
        State.imem_memWrite_other _ _ _ _ _ (List.forall_mem_cons.1 hc).1]

/-- Each stored element stands in RAM where no later element touches its bytes. -/
theorem State.storeElements_get (src : State) (z : Size) (ts : List (Reg × Word)) (s : State) (hc : Canonical s)
    (h : ts.Pairwise fun p q => ∀ a ∈ z.addresses p.2, a ∉ z.addresses q.2) (p : Reg × Word) (hp : p ∈ ts) :
    HoldsAt (ts.foldl (State.storeElement src z) s) p.2 z (src.readReg p.1) := by
  induction ts generalizing s with
  | nil => simp at hp
  | cons q ts ih =>
    rw [List.pairwise_cons] at h
    rw [List.foldl_cons]
    rcases List.mem_cons.1 hp with rfl | hm
    · intro i hi hr
      have hp : (ts.foldl (State.storeElement src z) (State.storeElement src z s p)).params = s.params :=
        (State.storeElements_frame src z (p :: ts) s).1.params
      rw [State.regionAt_congr _ _ hp] at hr
      rw [(State.storeElements_other src z ts _).data _ ?_, State.storeElement_eq, dataByte_signal,
        State.dataByte_memWrite_self _ _ _ _ hc.data hc.code i hi hr]
      · rfl
      · intro _ e he
        obtain ⟨t, ht, rfl⟩ := List.mem_map.1 he
        exact h.1 t ht _ ((Size.mem_addresses z p.2 _).2 ⟨i, hi, rfl⟩)
    · exact ih _ (State.storeElement_wf src z s q hc) h.2 hm

/-- The accesses of an RGS store, in order. -/
theorem State.storeElements_bus (src : State) (z : Size) (ts : List (Reg × Word)) (s : State) :
    (ts.foldl (State.storeElement src z) s).bus =
      s.bus ++ s.writes z (ts.map fun p => (p.2, src.readReg p.1)) := by
  induction ts generalizing s with
  | nil => simp [State.writes]
  | cons p ts ih =>
    rw [List.foldl_cons, ih]
    simp [State.writes, State.storeElement_eq, State.dataAccess, State.signal, Size.lowBytes_eq]

end Sys2Proof.Machine
end

