-- ==== Sys2Proof/Tests/Slice0.lean ====
section
/-! SUPPORT. The model's own tests: what WellFormed refuses, a word for every constructor, one step of each mnemonic on the
vectors of 95_test_vectors.md, and a witness for the hypotheses of every statement. -/

namespace Sys2Proof.Tests

set_option Elab.async false

open Sys2Proof Sys2Proof.Machine

/-! ### WellFormed refuses -/

/-- A special register as a computation operand (10_state.md R46). -/
theorem test_wf_compute : (Instr.addtTri .lc .r1 .r2 .alw).wellFormed = false := by decide

/-- The condition code 14 (30_encoding.md R104). -/
theorem test_wf_cond : (Instr.addtTri .r0 .r1 .r2 .undef).wellFormed = false := by decide

/-- EP in a move (42_move_debugport.md R200). -/
theorem test_wf_move : (Instr.moveDual .ep .r0 .alw).wellFormed = false := by decide

/-- CC transferred by a load (41_load_store.md R171). -/
theorem test_wf_access : (Instr.ldlgLsd 0x2000 .cc .alw).wellFormed = false := by decide

/-- SA as an index (41_load_store.md R171). -/
theorem test_wf_index : (Instr.stlgLsx .r0 .sa 8 .alw).wellFormed = false := by decide

/-- A load into the register its own update writes, R8 (41_load_store.md R172). -/
theorem test_wf_apart : (Instr.ldlgLsu 8 4 .r8 .alw).wellFormed = false := by decide

/-- An RGS load into An, R8 (41_load_store.md R172). -/
theorem test_wf_selection_apart : (Instr.ldlgRgsi 8 0b0000001100000000000).wellFormed = false := by decide

/-- An RGS form that selects nothing (30_encoding.md R104). -/
theorem test_wf_selection : (Instr.stlgRgsd 0 23).wellFormed = false := by decide

/-- What none of the checks refuses. -/
theorem test_wf_accepts :
    (Instr.addtTri .r0 .r1 .rz .igt).wellFormed = true ∧ (Instr.moveDual .cs .ia .alw).wellFormed = true ∧
      (Instr.ldlgLsr 8 .lc .sa .izr).wellFormed = true ∧ (Instr.ldlgRgsi 0 0b1).wellFormed = true := by
  decide

/-! ### Decoding: a word for every constructor, its fields placed by hand in the columns of 30_encoding.md R91, R97, R101
over the row's fixed bits of R102 -/

theorem test_decode_register_forms_1 :
    decode 0x92085DC0 = .ok (.subfTri .r8 .rz .rb .ihi) ∧
    decode 0xC216A5C8 = .ok (.addtTri .ry .rz .rw .ile) ∧
    decode 0xF2107010 = .ok (.subcTri .rp .r0 .re .alw) ∧
    decode 0xC2070D18 = .ok (.addcTri .r7 .rw .r1 .ile) ∧
    decode 0xF20558E8 = .ok (.andbTri .r5 .r3 .rb .alw) ∧
    decode 0x72078B30 = .ok (.iorbTri .r7 .rc .rq .ing) ∧
    decode 0x121201F8 = .ok (.xorbTri .ru .r7 .r0 .icr) ∧
    decode 0xB0064340 = .ok (.mult .r6 .rd .r8 .ige) ∧
    decode 0x200C1150 = .ok (.mlhu .rc .r5 .r2 .ino) ∧
    decode 0x201374D8 = .ok (.mlhs .rv .rv .re .ino) ∧
    decode 0x24040000 = .ok (.moveDual .r4 .r0 .ino) ∧
    decode 0xD4003010 = .ok (.negt .r0 .r6 .igt) ∧
    decode 0xC4062818 = .ok (.absl .r6 .r5 .ile) ∧
    decode 0xD4054820 = .ok (.invt .r5 .r9 .igt) ∧
    decode 0x54068828 = .ok (.clzr .r6 .rq .izr) ∧
    decode 0xF415A030 = .ok (.ibos .rx .rw .alw) ∧
    decode 0x3405B038 = .ok (.ibol .r5 .ry .iof) := by
  decide +kernel

theorem test_decode_register_forms_2 :
    decode 0x38180240 = .ok (.shlzK5 24 .r9 .r0 .iof) ∧
    decode 0x5A0D2140 = .ok (.shlzTri .rd .r5 .r4 .izr) ∧
    decode 0x48044A88 = .ok (.shruK5 4 .ra .r9 .inz) ∧
    decode 0xDA130488 = .ok (.shruTri .rv .ru .r0 .igt) ∧
    decode 0x98154890 = .ok (.shlfK5 21 .r2 .r9 .ihi) ∧
    decode 0x5A09B3D0 = .ok (.shlfTri .r9 .rf .ry .izr) ∧
    decode 0x580B7BD8 = .ok (.shrsK5 11 .rf .rf .izr) ∧
    decode 0xBA054058 = .ok (.shrsTri .r5 .r1 .r8 .ige) ∧
    decode 0x08160320 = .ok (.btclK5 22 .rc .r0 .inc) ∧
    decode 0x8A0D62E0 = .ok (.btclTri .rd .rb .rc .ils) ∧
    decode 0x98000BB0 = .ok (.btstK5 0 .re .r1 .ihi) ∧
    decode 0xBA0534F0 = .ok (.btstTri .r5 .rv .r6 .ige) ∧
    decode 0x180F5BB8 = .ok (.bttgK5 15 .re .rb .icr) ∧
    decode 0x8A0B4438 = .ok (.bttgTri .rb .rp .r8 .ils) ∧
    decode 0xC81D00E8 = .ok (.bttsK5t 29 .r3 .ile) ∧
    decode 0x9A1702E8 = .ok (.bttsTrit .rz .rb .ihi) ∧
    decode 0x0E090040 = .ok (.compCmpr .r9 .r1) ∧
    decode 0x0E020190 = .ok (.cmpcCmpr .r2 .r6) ∧
    decode 0x0C100000 = .ok (.mtdp .rp) ∧
    decode 0x0C005808 = .ok (.mfdp .rb) := by
  decide +kernel

theorem test_decode_constant_forms :
    decode 0xF4BE4281 = .ok (.subfK12 0x4BE .ra .r8 .alw) ∧
    decode 0xF2F2AA49 = .ok (.addtK12 0x2F2 .r9 .rx .alw) ∧
    decode 0x59CC1151 = .ok (.subcK12 0x9CC .r5 .r2 .izr) ∧
    decode 0xA4C3B5D9 = .ok (.addcK12 0x4C3 .rz .ry .ilo) ∧
    decode 0x4F672BA9 = .ok (.moveK17m 0x1EF67 .r5 .inz) ∧
    decode 0x18DB9882 = .ok (.subfK16 0x18DB .r2 .rv) ∧
    decode 0xCFD0384A = .ok (.addtK16 0xCFD0 .r1 .r7) ∧
    decode 0xB00A722A = .ok (.andbK16 0xB00A .r8 .re) ∧
    decode 0xD7F00932 = .ok (.iorbK16 0xD7F0 .r4 .r1) ∧
    decode 0x10C053FA = .ok (.xorbK16 0x10C0 .rf .ra) ∧
    decode 0x6A03B91A = .ok (.addh 0x6A03 .r4 .rz) ∧
    decode 0x43FB6D03 = .ok (.mlcu 0x43FB .rw .rd) ∧
    decode 0x566F5B4B = .ok (.mlcs 0x566F .rd .rb) ∧
    decode 0x3C2E036B = .ok (.compK17c 0x13C2E .rd) ∧
    decode 0x909703BB = .ok (.cmpcK17c 0x19097 .re) := by
  decide +kernel

theorem test_decode_loads_1 :
    decode 0xF9EF7D84 = .ok (.ldbzLsd 0xF9EF .ry .alw) ∧
    decode 0xBF54D204 = .ok (.ldbzLso 0xF54 10 .r8 .ige) ∧
    decode 0x4CEB7905 = .ok (.ldbzLsu 15 0xCEB .r4 .inz) ∧
    decode 0x1014E3C5 = .ok (.ldbzLsr 12 .rw .rf .icr) ∧
    decode 0xD402D3C5 = .ok (.ldbzLsx .r2 10 .rf .igt) ∧
    decode 0x6A06D805 = .ok (.ldbzRgsi 11 0b0000001100000010110) ∧
    decode 0x2C39C005 = .ok (.ldbzRgsd 8 0b0010000011100100000) ∧
    decode 0x205A428C = .ok (.ldbsLsd 0x805A .ra .ino) ∧
    decode 0xAED0C24C = .ok (.ldbsLso 0xED0 8 .r9 .ilo) ∧
    decode 0xDB215A0D = .ok (.ldbsLsu 11 0xB21 .r8 .igt) ∧
    decode 0xA00BDF4D = .ok (.ldbsLsr 11 .rb .sa .ilo) ∧
    decode 0x240AF40D = .ok (.ldbsLsx .ra 14 .rp .ino) ∧
    decode 0x0894AA8D = .ok (.ldbsRgsi 5 0b0101000101001000000) ∧
    decode 0x3D11E80D = .ok (.ldbsRgsd 13 0b0011010001000100000) ∧
    decode 0x84253154 = .ok (.ldszLsd 0x6425 .r5 .ils) ∧
    decode 0x95C8F1D4 = .ok (.ldszLso 0x5C8 14 .r7 .ihi) ∧
    decode 0xC1562BD5 = .ok (.ldszLsu 5 0x156 .rf .ile) ∧
    decode 0x3004A8D5 = .ok (.ldszLsr 5 .r4 .r3 .iof) := by
  decide +kernel

theorem test_decode_loads_2 :
    decode 0x5406AC55 = .ok (.ldszLsx .r6 5 .rq .izr) ∧
    decode 0x2816EC15 = .ok (.ldszRgsi 13 0b0000101101000000100) ∧
    decode 0x8CC0BC55 = .ok (.ldszRgsd 7 0b1000001100000010001) ∧
    decode 0xDF6D585C = .ok (.ldssLsd 0xBF6D .r1 .igt) ∧
    decode 0x8308CA5C = .ok (.ldssLso 0x308 9 .r9 .ils) ∧
    decode 0x896152DD = .ok (.ldssLsu 10 0x961 .rb .ils) ∧
    decode 0xD00DA75D = .ok (.ldssLsr 4 .rd .sa .igt) ∧
    decode 0x9404D95D = .ok (.ldssLsx .r4 11 .r5 .ihi) ∧
    decode 0x0A90E25D = .ok (.ldssRgsi 12 0b1001000001001010000) ∧
    decode 0x0C91DA5D = .ok (.ldssRgsd 11 0b0000001001000101001) ∧
    decode 0xF06F6364 = .ok (.ldlgLsd 0xC06F .rd .alw) ∧
    decode 0x6FCABA64 = .ok (.ldlgLso 0xFCA 7 .r9 .ips) ∧
    decode 0x7C486165 = .ok (.ldlgLsu 12 0xC48 .r5 .ing) ∧
    decode 0x900FC365 = .ok (.ldlgLsr 8 .rf .rd .ihi) ∧
    decode 0x040FD265 = .ok (.ldlgLsx .rf 10 .r9 .inc) ∧
    decode 0x9A40FC25 = .ok (.ldlgRgsi 15 0b0000100000010011001) ∧
    decode 0x1C88A265 = .ok (.ldlgRgsd 4 0b0001001000100001001) := by
  decide +kernel

theorem test_decode_stores :
    decode 0xFDC73BEC = .ok (.stbtLsd .rf 0x7DC7 .alw) ∧
    decode 0x4924A26C = .ok (.stbtLso .r9 0x924 4 .inz) ∧
    decode 0x73C8782D = .ok (.stbtLsu .r0 15 0x3C8 .ing) ∧
    decode 0xC009A46D = .ok (.stbtLsr .rq 4 .r9 .ile) ∧
    decode 0xB417D42D = .ok (.stbtLsx .rp .rz 10 .ige) ∧
    decode 0xCA04F06D = .ok (.stbtRgsi 0b1000000100000010011 14) ∧
    decode 0x6C02F26D = .ok (.stbtRgsd 0b0110000000001001001 14) ∧
    decode 0xC55C63F4 = .ok (.stlgLsd .rf 0xC55C .ile) ∧
    decode 0x697CB3B4 = .ok (.stlgLso .re 0x97C 6 .ips) ∧
    decode 0xD9B71775 = .ok (.stlgLsu .sa 2 0x9B7 .igt) ∧
    decode 0x0014EE35 = .ok (.stlgLsr .lc 13 .rw .inc) ∧
    decode 0x7405CBF5 = .ok (.stlgLsx .rf .r5 9 .ing) ∧
    decode 0x0A19F8B5 = .ok (.stlgRgsi 0b0100010011000010000 15) ∧
    decode 0x0D0C89B5 = .ok (.stlgRgsd 0b0000010000110000110 1) ∧
    decode 0xCA8555FC = .ok (.stshLsd .rz 0xAA85 .ile) ∧
    decode 0x6CF795BC = .ok (.stshLso .ry 0xCF7 2 .ips) ∧
    decode 0x73F20F7D = .ok (.stshLsu .sa 1 0x3F2 .ing) ∧
    decode 0x1016B93D = .ok (.stshLsr .r4 7 .ry .icr) ∧
    decode 0x4405F4FD = .ok (.stshLsx .rv .r5 14 .inz) ∧
    decode 0x69A0E83D = .ok (.stshRgsi 0b0000000000101100110 13) ∧
    decode 0x0C48E3BD = .ok (.stshRgsd 0b0000000100100001110 12) := by
  decide +kernel

theorem test_decode_branches :
    decode 0x0044C506 = .ok (.brnc 0x1131 false) ∧
    decode 0x002ED316 = .ok (.brcr 0xBB4 true) ∧
    decode 0x00FA9B26 = .ok (.brno 0x3EA6 true) ∧
    decode 0x00BF9536 = .ok (.brof 0x2FE5 false) ∧
    decode 0x0096E546 = .ok (.brnz 0x25B9 false) ∧
    decode 0x00949956 = .ok (.brzr 0x2526 false) ∧
    decode 0x00205966 = .ok (.brps 0x816 false) ∧
    decode 0x00911D76 = .ok (.brng 0x2447 false) ∧
    decode 0x00780786 = .ok (.brls 0x1E01 true) ∧
    decode 0x00C71D96 = .ok (.brhi 0x31C7 false) ∧
    decode 0x000993A6 = .ok (.brlo 0x264 true) ∧
    decode 0x001265B6 = .ok (.brge 0x499 false) ∧
    decode 0x003FE7C6 = .ok (.brle 0xFF9 true) ∧
    decode 0x00C79BD6 = .ok (.brgt 0x31E6 true) ∧
    decode 0x00A585E6 = .ok (.brlc 0x2961) := by
  decide +kernel

theorem test_decode_implied_and_jumps :
    decode 0x00000006 = .ok .jumpImp ∧
    decode 0x00000016 = .ok .jpsrImp ∧
    decode 0x00000026 = .ok .rtsr ∧
    decode 0x00000036 = .ok .rtir ∧
    decode 0x00000046 = .ok .stop ∧
    decode 0x00000066 = .ok .svpc ∧
    decode 0x00000076 = .ok .rspc ∧
    decode 0x00000086 = .ok .stie ∧
    decode 0x00000096 = .ok .clie ∧
    decode 0x000000A6 = .ok .rsie ∧
    decode 0x000000B6 = .ok .scie ∧
    decode 0x723897EE = .ok (.jumpJa 0x391C4BF) ∧
    decode 0x3B6E8BDE = .ok (.jpsrJa 0x1DB745E) := by
  decide +kernel

/-! One word of each family, bit by bit from the formats of 30_encoding.md R101. -/

/-- `addt R1,R2,R3`: CND 15, fixed, Rs0, Rd, Rs1, op. -/
theorem test_bits_addt :
    decode (0b1111#4 ++ 0b0010000#7 ++ 0b00001#5 ++ 0b00011#5 ++ 0b00010#5 ++ 0b001000#6) =
      .ok (.addtTri .r1 .r2 .r3 .alw) := by
  decide +kernel

/-- `andb 0x00FF,R2,R3`: C16U, Rd, Rs1, op. -/
theorem test_bits_andb :
    decode (0x00FF#16 ++ 0b00011#5 ++ 0b00010#5 ++ 0b101010#6) = .ok (.andbK16 0x00FF .r2 .r3) := by
  decide +kernel

/-- `shrs 31,R1,R2,NST`: CND 7, fixed, the count, Rd, Rs1, op. -/
theorem test_bits_shrs :
    decode (0b0111#4 ++ 0b1000000#7 ++ 0b11111#5 ++ 0b00010#5 ++ 0b00001#5 ++ 0b011000#6) =
      .ok (.shrsK5 31 .r1 .r2 .ing) := by
  decide +kernel

/-- `mlhs R1,R2,R3`. -/
theorem test_bits_mlhs :
    decode (0b1111#4 ++ 0b0000000#7 ++ 0b00001#5 ++ 0b00011#5 ++ 0b00010#5 ++ 0b011000#6) =
      .ok (.mlhs .r1 .r2 .r3 .alw) := by
  decide +kernel

/-- `move -65536,R0`: bits 11 to 0 of the constant are 0, bits 15 to 12 are 0, bit 16 stands at bit 3. -/
theorem test_bits_move :
    decode (0b1111#4 ++ 0b000000000000#12 ++ 0b00000#5 ++ 0#1 ++ 0b0000#4 ++ 0b10#2 ++ 1#1 ++ 0b001#3) =
      .ok (.moveK17m 0x10000 .r0 .alw) := by
  decide +kernel

/-- `ldsz (R3,R9),R4,ZST`: Rx, An = 9, the register loaded, type 2. -/
theorem test_bits_ldsz :
    decode (0b0101#4 ++ 0b0100000#7 ++ 0b00011#5 ++ 1#1 ++ 0b1001#4 ++ 0b00100#5 ++ 0b010#3 ++ 0b101#3) =
      .ok (.ldszLsx .r3 9 .r4 .izr) := by
  decide +kernel

/-- `stlg (SA,R0,R1),-(RZ)`: the flags of the descending row of R97 (R1 and R0 at bits 10 and 9, SA at bit 6), mode 11,
An = 7. -/
theorem test_bits_stlg :
    decode (0b0000#4 ++ 0b11#2 ++ 0b0000000000#10 ++ 1#1 ++ 0b0111#4 ++ 0b11001#5 ++ 0b110#3 ++ 0b101#3) =
      .ok (.stlgRgsd 0b0000000000000011001 7) := by
  decide +kernel

/-- `brgt 8,T`: the offset without its two low bits, S, 1, condition 13. -/
theorem test_bits_brgt :
    decode (0#8 ++ 0b00000000000010#14 ++ 1#1 ++ 1#1 ++ 0b1101#4 ++ 0b0110#4) = .ok (.brgt 2 true) := by
  decide +kernel

/-- `stop`: code 4. -/
theorem test_bits_stop : decode (0#24 ++ 0b0100#4 ++ 0b0110#4) = .ok .stop := by decide +kernel

/-- Codes 5 and 12 of the implied form and the primary opcode 7 are no instruction (30_encoding.md R92, R103). -/
theorem test_unassigned :
    decode 0x00000056 = .error (.unassigned 0x00000056) ∧ decode 0x000000C6 = .error (.unassigned 0x000000C6) ∧
      decode 0x00000007 = .error (.unassigned 0x00000007) ∧ decodeBytes [0x46, 0, 0] = .error (.truncated 3) := by
  decide +kernel

/-! ### One step: the vectors of 95_test_vectors.md part B -/

/-- The state a vector starts from: system mode, pc = 0x100, the registers listed, all else 0, `SECEXC_IA` = cia. -/
def start (l : List (Reg × Word)) : State :=
  l.foldl (fun s p => s.writeReg p.1 p.2)
    { State.reset with pc := 0x100, params := { Config.standard with secExcIa := .offender, svpcValue := .resume } }

/-- The step that fetches and runs a word, under a word on DBI. -/
def stepOn (s : State) (w : Nat) (dbi : Option Word) : Result :=
  step { s.withFetchWord 32 w with inputs := [{ Inputs.quiet with dbi := dbi }] }

/-- What a field holds after that step. -/
def after {α : Type} (s : State) (w : Nat) (f : State → α) (dbi : Option Word := none) : Option α :=
  match stepOn s w dbi with
  | .next t => some (f t)
  | _ => none

/-- Why that step is refused. -/
def refusalOf (s : State) (w : Nat) : Option Refusal :=
  match stepOn s w none with
  | .refused r => some r
  | _ => none

/-- `addt R1,R2,R3`. -/
theorem test_addt_carry_and_overflow :
    after (start [(.r1, 0x80000000), (.r2, 0x80000000)]) 0xF2011888
      (fun t => (t.readReg .r3, t.cc)) = some (0x0, .ofBits 0b0111) := by
  decide +kernel

/-- `addt R1,R2,R3,ZCL`. -/
theorem test_addt_false_condition :
    after { start [(.r1, 0x5), (.r2, 0x6)] with cc := .ofBits 0b0100 } 0x42011888
      (fun t => (t.readReg .r3, t.cc)) = some (0x0, .ofBits 0b0100) := by
  decide +kernel

/-- `addc R1,R2,R3`. -/
theorem test_addc_keeps_zero :
    after { start [(.r1, 0xFFFFFFFF), (.r2, 0x0)] with cc := .ofBits 0b0101 } 0xF2011898
      (fun t => (t.readReg .r3, t.cc)) = some (0x0, .ofBits 0b0101) := by
  decide +kernel

/-- `addc 0,R2,R2`. -/
theorem test_addc_carry_in :
    after { start [(.r2, 0x7FFFFFFF)] with cc := .ofBits 0b0001 } 0xF0001099
      (fun t => (t.readReg .r2, t.cc)) = some (0x80000000, .ofBits 0b1010) := by
  decide +kernel

/-- `subf R1,R2,R3`. -/
theorem test_subf_borrow :
    after (start [(.r1, 0x3), (.r2, 0x1)]) 0xF2011880
      (fun t => (t.readReg .r3, t.cc)) = some (0xFFFFFFFE, .ofBits 0b1001) := by
  decide +kernel

/-- `subf R1,R2,R3`. -/
theorem test_subf_overflow :
    after (start [(.r1, 0x1), (.r2, 0x80000000)]) 0xF2011880
      (fun t => (t.readReg .r3, t.cc)) = some (0x7FFFFFFF, .ofBits 0b0010) := by
  decide +kernel

/-- `subc R1,R2,R3`. -/
theorem test_subc_keeps_zero :
    after { start [(.r1, 0x1), (.r2, 0x2)] with cc := .ofBits 0b0101 } 0xF2011890
      (fun t => (t.readReg .r3, t.cc)) = some (0x0, .ofBits 0b0100) := by
  decide +kernel

/-- `subc R1,R2,R3`. -/
theorem test_subc_zero_stays_clear :
    after (start [(.r1, 0x1), (.r2, 0x1)]) 0xF2011890
      (fun t => (t.readReg .r3, t.cc)) = some (0x0, .ofBits 0b0000) := by
  decide +kernel

/-- `comp R1,R2`. -/
theorem test_comp_negative :
    after (start [(.r1, 0x5), (.r2, 0xFFFFFFFF)]) 0x0E010080 (fun t => t.cc) = some (.ofBits 0b1000) := by
  decide +kernel

/-- `comp -1,R2`. -/
theorem test_comp_negative_constant :
    after (start [(.r2, 0xFFFFFFFF)]) 0xFFFF00AB (fun t => t.cc) = some (.ofBits 0b0100) := by
  decide +kernel

/-- `cmpc R1,R2`. -/
theorem test_cmpc_borrow :
    after { start [(.r1, 0x0), (.r2, 0x1)] with cc := .ofBits 0b0101 } 0x0E010090
      (fun t => t.cc) = some (.ofBits 0b0100) := by
  decide +kernel

/-- `addh 0x12340000,R0,R0`. -/
theorem test_addh_constant_idiom :
    after { start [(.r0, 0x5678)] with cc := .ofBits 0b1111 } 0x1234001A
      (fun t => (t.readReg .r0, t.cc)) = some (0x12345678, .ofBits 0b1111) := by
  decide +kernel

/-- `negt R1,R2`. -/
theorem test_negt_most_negative :
    after (start [(.r1, 0x80000000)]) 0xF4011010 (fun t => t.readReg .r2) = some 0x80000000 := by
  decide +kernel

/-- `absl R1,R2`. -/
theorem test_absl_negative :
    after (start [(.r1, 0xFFFFFFFB)]) 0xF4011018 (fun t => t.readReg .r2) = some 0x5 := by
  decide +kernel

/-- `absl R1,R2`. -/
theorem test_absl_most_negative :
    after (start [(.r1, 0x80000000)]) 0xF4011018 (fun t => t.readReg .r2) = some 0x80000000 := by
  decide +kernel

/-- `clzr R1,R2`. -/
theorem test_clzr_of_zero :
    after (start [(.r1, 0x0)]) 0xF4011028 (fun t => t.readReg .r2) = some 0x20 := by
  decide +kernel

/-- `clzr R1,R2`. -/
theorem test_clzr_count :
    after (start [(.r1, 0x12345)]) 0xF4011028 (fun t => t.readReg .r2) = some 0xF := by
  decide +kernel

/-- `andb R1,R2,R3`. -/
theorem test_andb_odd_parity :
    after (start [(.r1, 0x80000001), (.r2, 0x80000000)]) 0xF20118A8
      (fun t => (t.readReg .r3, t.cc)) = some (0x80000000, .ofBits 0b1011) := by
  decide +kernel

/-- `andb R1,R2,R3`. -/
theorem test_andb_parity_with_carry :
    after { start [(.r1, 0x80000001), (.r2, 0x80000000)] with cc := .ofBits 0b0001 } 0xF20118A8
      (fun t => (t.readReg .r3, t.cc)) = some (0x80000000, .ofBits 0b1001) := by
  decide +kernel

/-- `iorb R1,R2,R3`. -/
theorem test_iorb_keeps_flags :
    after { start [(.r1, 0xF0F0F0F0), (.r2, 0xF0F0000)] with cc := .ofBits 0b0101 } 0xF20118B0
      (fun t => (t.readReg .r3, t.cc)) = some (0xFFFFF0F0, .ofBits 0b0101) := by
  decide +kernel

/-- `xorb R1,R1,R1`. -/
theorem test_xorb_same_register :
    after { start [(.r1, 0xDEADBEEF)] with cc := .ofBits 0b1000 } 0xF2010878
      (fun t => (t.readReg .r1, t.cc)) = some (0x0, .ofBits 0b1000) := by
  decide +kernel

/-- `invt R1,R2`. -/
theorem test_invt_bits :
    after (start [(.r1, 0xF0F1234)]) 0xF4011020 (fun t => t.readReg .r2) = some 0xF0F0EDCB := by
  decide +kernel

/-- `shlz R0,R1,R2`. -/
theorem test_shlz_count_modulo_32 :
    after (start [(.r0, 0x24), (.r1, 0x1)]) 0xFA001040 (fun t => t.readReg .r2) = some 0x10 := by
  decide +kernel

/-- `shru 31,R1,R2`. -/
theorem test_shru_31 :
    after (start [(.r1, 0x80000000)]) 0xF81F1048 (fun t => t.readReg .r2) = some 0x1 := by
  decide +kernel

/-- `shrs 4,R1,R2`. -/
theorem test_shrs_sign :
    after (start [(.r1, 0x80000010)]) 0xF8041058 (fun t => t.readReg .r2) = some 0xF8000001 := by
  decide +kernel

/-- `shrs R0,R1,R2`. -/
theorem test_shrs_count_modulo_32 :
    after (start [(.r0, 0xFFFFFFE1), (.r1, 0xC0000000)]) 0xFA001058 (fun t => t.readReg .r2) = some 0xE0000000 := by
  decide +kernel

/-- `shlf 8,R1,R2`. -/
theorem test_shlf_8 :
    after (start [(.r1, 0x12345678)]) 0xF8081050 (fun t => t.readReg .r2) = some 0x34567812 := by
  decide +kernel

/-- `btst 31,R1,R2`. -/
theorem test_btst_31 :
    after (start [(.r1, 0x0)]) 0xF81F1070 (fun t => t.readReg .r2) = some 0x80000000 := by
  decide +kernel

/-- `btcl 4,R1,R2`. -/
theorem test_btcl_4 :
    after (start [(.r1, 0xFFFFFFFF)]) 0xF8041060 (fun t => t.readReg .r2) = some 0xFFFFFFEF := by
  decide +kernel

/-- `bttg R0,R1,R2`. -/
theorem test_bttg_index_modulo_32 :
    after (start [(.r0, 0x25), (.r1, 0x0)]) 0xFA001078 (fun t => t.readReg .r2) = some 0x20 := by
  decide +kernel

/-- `btts 31,R1`. -/
theorem test_btts_sign_bit :
    after { start [(.r1, 0x80000000)] with cc := .ofBits 0b0011 } 0xF81F0068
      (fun t => t.cc) = some (.ofBits 0b1000) := by
  decide +kernel

/-- `btts 3,R1`. -/
theorem test_btts_clear_bit :
    after { start [(.r1, 0xFFFFFFF7)] with cc := .ofBits 0b1000 } 0xF8030068
      (fun t => t.cc) = some (.ofBits 0b0100) := by
  decide +kernel

/-- `mult R1,R2,R3`. -/
theorem test_mult_low_half :
    after (start [(.r1, 0xFFFFFFFF), (.r2, 0xFFFFFFFF)]) 0xF0011880 (fun t => t.readReg .r3) = some 0x1 := by
  decide +kernel

/-- `mlhu R1,R2,R3`. -/
theorem test_mlhu_all_ones :
    after (start [(.r1, 0xFFFFFFFF), (.r2, 0xFFFFFFFF)]) 0xF0011890 (fun t => t.readReg .r3) = some 0xFFFFFFFE := by
  decide +kernel

/-- `mlhs R1,R2,R3`. -/
theorem test_mlhs_negative :
    after (start [(.r1, 0x80000000), (.r2, 0x7FFFFFFF)]) 0xF0011898 (fun t => t.readReg .r3) = some 0xC0000000 := by
  decide +kernel

/-- `mlcu 0xFFFF,R2,R3`. -/
theorem test_mlcu_unsigned_constant :
    after (start [(.r2, 0x10001)]) 0xFFFF1883 (fun t => t.readReg .r3) = some 0xFFFFFFFF := by
  decide +kernel

/-- `mlcs 0x8000,R2,R3`. -/
theorem test_mlcs_signed_constant :
    after (start [(.r2, 0x2)]) 0x8000188B (fun t => t.readReg .r3) = some 0xFFFF0000 := by
  decide +kernel

/-- `ibol R1,R2`. -/
theorem test_ibol_reverses :
    after (start [(.r1, 0x11223344)]) 0xF4011038 (fun t => t.readReg .r2) = some 0x44332211 := by
  decide +kernel

/-- `ibos R1,R2`. -/
theorem test_ibos_swaps_low_half :
    after (start [(.r1, 0x11223344)]) 0xF4011030 (fun t => t.readReg .r2) = some 0x11224433 := by
  decide +kernel

/-- `move CC,R2`. -/
theorem test_move_from_cc :
    after { start [] with cc := .ofBits 0b1001 } 0xF4191000
      (fun t => (t.readReg .r2, t.cc)) = some (0x9, .ofBits 0b1001) := by
  decide +kernel

/-- `move R1,CS`. -/
theorem test_move_to_cs :
    after { start [(.r1, 0x107F)] with cs := { ivtp := 0x0, is := false, ie := true, ir := true } } 0xF401D000
      (fun t => t.cs) = some (⟨0x41, false, true, true⟩) := by
  decide +kernel

/-- `move -65536,R0`. -/
theorem test_move_most_negative_constant :
    after (start []) 0xF0000029 (fun t => t.readReg .r0) = some 0xFFFF0000 := by
  decide +kernel

/-- `mtdp CC`. -/
theorem test_mtdp_cc :
    after { start [] with cc := .ofBits 0b1001 } 0x0C190000 (fun t => (t.cc, t.dbo)) = some (.ofBits 0b1001, 0x9) := by
  decide +kernel

/-- `mfdp TA`. -/
theorem test_mfdp_ta :
    after (start []) 0x0C00E008 (fun t => t.readReg .ta) (dbi := some 0x1003) = some 0x1000 := by
  decide +kernel

/-- `mfdp IA`. -/
theorem test_mfdp_ia_traps :
    after { start [] with cs := { ivtp := 0x41, is := false, ie := false, ir := false }, dmem := [(0x1040, 0x03), (0x1041, 0x08)] } 0x0C00F008
      (fun t => (t.readReg .ia, t.cs, t.pc)) (dbi := some 0x4000) =
      some (0x100, ⟨0x41, false, false, true⟩, 0x800) := by
  decide +kernel

/-- `move R1,CS`. -/
theorem test_move_to_cs_traps :
    after { start [(.r1, 0x2000)] with cc := .ofBits 0b0101, cs := { ivtp := 0x41, is := false, ie := false, ir := false }, dmem := [(0x1040, 0x03), (0x1041, 0x08)] } 0xF401D000
      (fun t => (t.readReg .ia, t.cs, t.cc, t.pc)) =
      some (0x100, ⟨0x41, false, false, true⟩, .ofBits 0b0101, 0x800) := by
  decide +kernel

/-- `ldlg 0x2003,R1`. -/
theorem test_ldlg_misaligned :
    after { start [] with dmem := [(0x2000, 0xBB), (0x2001, 0xAA), (0x2002, 0x99), (0x2003, 0x88), (0x2004, 0xFF), (0x2005, 0xEE), (0x2006, 0xDD), (0x2007, 0xCC)] } 0xF0031064
      (fun t => t.readReg .r1) =
      some 0x8899AABB := by
  decide +kernel

/-- `ldsz 0x2003,R1`. -/
theorem test_ldsz_misaligned :
    after { start [] with dmem := [(0x2000, 0xBB), (0x2001, 0xAA), (0x2002, 0x99), (0x2003, 0x88), (0x2004, 0xFF), (0x2005, 0xEE), (0x2006, 0xDD), (0x2007, 0xCC)] } 0xF0031054
      (fun t => t.readReg .r1) =
      some 0x8899 := by
  decide +kernel

/-- `ldss 0x2002,R1`. -/
theorem test_ldss_sign :
    after { start [] with dmem := [(0x2000, 0xBB), (0x2001, 0xAA), (0x2002, 0x99), (0x2003, 0x88), (0x2004, 0xFF), (0x2005, 0xEE), (0x2006, 0xDD), (0x2007, 0xCC)] } 0xF002105C
      (fun t => t.readReg .r1) =
      some 0xFFFF8899 := by
  decide +kernel

/-- `ldbz 0x2003,R1`. -/
theorem test_ldbz_top_byte :
    after { start [] with dmem := [(0x2000, 0xBB), (0x2001, 0xAA), (0x2002, 0x99), (0x2003, 0x88), (0x2004, 0xFF), (0x2005, 0xEE), (0x2006, 0xDD), (0x2007, 0xCC)] } 0xF0031044
      (fun t => t.readReg .r1) =
      some 0x88 := by
  decide +kernel

/-- `ldbs 0x2003,R1`. -/
theorem test_ldbs_sign :
    after { start [] with dmem := [(0x2000, 0xBB), (0x2001, 0xAA), (0x2002, 0x99), (0x2003, 0x88), (0x2004, 0xFF), (0x2005, 0xEE), (0x2006, 0xDD), (0x2007, 0xCC)] } 0xF003104C
      (fun t => t.readReg .r1) =
      some 0xFFFFFF88 := by
  decide +kernel

/-- `ldlg (8,RA),R1`. -/
theorem test_ldlg_offset_wraps :
    after { start [(.ra, 0xFFFFFFFC)] with dmem := [(0x4, 0x88), (0x5, 0x77), (0x6, 0x66), (0x7, 0x55)] } 0xF008D064
      (fun t => t.readReg .r1) = some 0x55667788 := by
  decide +kernel

/-- `ldsz (R2,R8),R1`. -/
theorem test_ldsz_scaled_index :
    after { start [(.r2, 0x3), (.r8, 0x2000)] with dmem := [(0x2000, 0xBB), (0x2001, 0xAA), (0x2002, 0x99), (0x2003, 0x88), (0x2004, 0xFF), (0x2005, 0xEE), (0x2006, 0xDD), (0x2007, 0xCC)] } 0xF402C055
      (fun t => t.readReg .r1) =
      some 0xCCDD := by
  decide +kernel

/-- `ldbz (R8,-1)*,R1`. -/
theorem test_ldbz_negative_update :
    after { start [(.r8, 0x2001)] with dmem := [(0x2000, 0xBB), (0x2001, 0xAA), (0x2002, 0x99), (0x2003, 0x88), (0x2004, 0xFF), (0x2005, 0xEE), (0x2006, 0xDD), (0x2007, 0xCC)] } 0xFFFF4045
      (fun t => (t.readReg .r1, t.readReg .r8)) =
      some (0xAA, 0x2000) := by
  decide +kernel

/-- `ldlg (R8,R2)*,R1`. -/
theorem test_ldlg_register_update :
    after { start [(.r2, 0x100), (.r8, 0x2004)] with dmem := [(0x2000, 0xBB), (0x2001, 0xAA), (0x2002, 0x99), (0x2003, 0x88), (0x2004, 0xFF), (0x2005, 0xEE), (0x2006, 0xDD), (0x2007, 0xCC)] } 0xF002C065
      (fun t => (t.readReg .r1, t.readReg .r8)) =
      some (0xCCDDEEFF, 0x2104) := by
  decide +kernel

/-- `ldlg 0x2000,TA`. -/
theorem test_ldlg_into_ta :
    after { start [] with dmem := [(0x2000, 0xBB), (0x2001, 0xAA), (0x2002, 0x99), (0x2003, 0x88), (0x2004, 0xFF), (0x2005, 0xEE), (0x2006, 0xDD), (0x2007, 0xCC)] } 0xF0001724
      (fun t => t.readReg .ta) =
      some 0x8899AAB8 := by
  decide +kernel

/-- `ldlg (RZ)+,(SA,R0,R1)`. -/
theorem test_ldlg_pop_selection :
    after { start [(.rz, 0x3FF4)] with dmem := [(0x3FF4, 0x04), (0x3FF5, 0x01), (0x3FFA, 0xAA), (0x3FFB, 0xAA), (0x3FFC, 0x11), (0x3FFD, 0x11), (0x3FFE, 0xBB), (0x3FFF, 0xBB)] } 0x9A00B825
      (fun t => (t.readReg .r0, t.readReg .r1, t.readReg .rz, t.readReg .sa)) =
      some (0xAAAA0000, 0xBBBB1111, 0x4000, 0x104) := by
  decide +kernel

/-- `ldss -(R8),(R0,R1)`. -/
theorem test_ldss_down_selection :
    after { start [(.r8, 0x2004)] with dmem := [(0x2000, 0xBB), (0x2001, 0xAA), (0x2002, 0x99), (0x2003, 0x88), (0x2004, 0xFF), (0x2005, 0xEE), (0x2006, 0xDD), (0x2007, 0xCC)] } 0x0C00C61D
      (fun t => (t.readReg .r0, t.readReg .r1, t.readReg .r8)) =
      some (0xFFFFAABB, 0xFFFF8899, 0x2000) := by
  decide +kernel

/-- `stlg R1,0x3002`. -/
theorem test_stlg_misaligned :
    after (start [(.r1, 0x11223344)]) 0xF0021874
      (fun t => t.dmem) = some ([(0x3000, 0x44), (0x3001, 0x33), (0x3002, 0x22), (0x3003, 0x11)]) := by
  decide +kernel

/-- `stsh R1,0x3003`. -/
theorem test_stsh_misaligned :
    after (start [(.r1, 0x11223344)]) 0xF003187C (fun t => t.dmem) = some ([(0x3002, 0x44), (0x3003, 0x33)]) := by
  decide +kernel

/-- `stbt R1,0x3003`. -/
theorem test_stbt_byte :
    after (start [(.r1, 0x11223344)]) 0xF003186C (fun t => t.dmem) = some ([(0x3003, 0x44)]) := by
  decide +kernel

/-- `stlg R1,(R9,R9)*`. -/
theorem test_stlg_update_register_is_an :
    after (start [(.r1, 0xCAFE0001), (.r9, 0x3000)]) 0xF009C875
      (fun t => (t.readReg .r9, t.dmem)) = some (0x6000, [(0x3000, 0x01), (0x3002, 0xFE), (0x3003, 0xCA)]) := by
  decide +kernel

/-- `stlg SA,(-4,RZ)`. -/
theorem test_stlg_sa :
    after (start [(.rz, 0x3004), (.sa, 0xABC)]) 0xFFFCBF74
      (fun t => t.dmem) = some ([(0x3000, 0xBC), (0x3001, 0x0A)]) := by
  decide +kernel

/-- `stbt R1,(R2,RB),NST`. -/
theorem test_stbt_index :
    after { start [(.r1, 0x1FF), (.r2, 0x5), (.rb, 0x3000)] with cc := .ofBits 0b1000 } 0x7402D86D
      (fun t => (t.cc, t.dmem)) = some (.ofBits 0b1000, [(0x3005, 0xFF)]) := by
  decide +kernel

/-- `stlg (SA,R0,R1),-(RZ)`. -/
theorem test_stlg_push_selection :
    after (start [(.r0, 0xAAAA0000), (.r1, 0xBBBB1111), (.rz, 0x4000), (.sa, 0x104)]) 0x0C00BE75
      (fun t => (t.readReg .rz, t.dmem)) =
      some (0x3FF4, [(0x3FF4, 0x04), (0x3FF5, 0x01), (0x3FFA, 0xAA), (0x3FFB, 0xAA), (0x3FFC, 0x11), (0x3FFD, 0x11), (0x3FFE, 0xBB), (0x3FFF, 0xBB)]) := by
  decide +kernel

/-- `stbt (R0,R1,RV),(R8)+`. -/
theorem test_stbt_up_selection :
    after (start [(.r0, 0x101), (.r1, 0x202), (.r8, 0x3000), (.rv, 0x303)]) 0x1A00C06D
      (fun t => (t.readReg .r8, t.dmem)) = some (0x3003, [(0x3000, 0x01), (0x3001, 0x02), (0x3002, 0x03)]) := by
  decide +kernel

/-- `stlg (R8,R9),-(R8)`. -/
theorem test_stlg_selection_holds_an :
    after (start [(.r8, 0x4000), (.r9, 0x99)]) 0x0CC0C035
      (fun t => (t.readReg .r8, t.dmem)) = some (0x3FF8, [(0x3FF9, 0x40), (0x3FFC, 0x99)]) := by
  decide +kernel

/-- `jump`. -/
theorem test_jump_ta : after (start [(.ta, 0x2000)]) 0x00000006 (fun t => t.pc) = some 0x2000 := by decide +kernel

/-- `jump 0x1FFFFFFC`. -/
theorem test_jump_largest_target : after (start []) 0xFFFFFFEE (fun t => t.pc) = some 0x1FFFFFFC := by decide +kernel

/-- `jpsr`. -/
theorem test_jpsr_ta :
    after (start [(.ta, 0x2000), (.sa, 0x44)]) 0x00000016 (fun t => (t.readReg .sa, t.pc)) = some (0x104, 0x2000) := by
  decide +kernel

/-- `rtsr`. -/
theorem test_rtsr_sa : after (start [(.sa, 0x144)]) 0x00000026 (fun t => t.pc) = some 0x144 := by decide +kernel

/-- `brlc -8`. -/
theorem test_brlc_last :
    after (start [(.lc, 0x1)]) 0x00FFF9E6 (fun t => (t.readReg .lc, t.pc)) = some (0x0, 0x104) := by
  decide +kernel

/-- `brlc -8`. -/
theorem test_brlc_from_zero :
    after (start [(.lc, 0x0)]) 0x00FFF9E6 (fun t => (t.readReg .lc, t.pc)) = some (0xFFFFFFFF, 0xF8) := by
  decide +kernel

/-- `brzr 0x20,F`. -/
theorem test_brzr_taken :
    after { start [] with cc := .ofBits 0b0100 } 0x00002156 (fun t => (t.cc, t.pc)) = some (.ofBits 0b0100, 0x120) := by
  decide +kernel

/-- `brzr 0x20,T`. -/
theorem test_brzr_hint_not_taken :
    after { start [] with cc := .ofBits 0b1011 } 0x00002356 (fun t => (t.cc, t.pc)) = some (.ofBits 0b1011, 0x104) := by
  decide +kernel

/-- `brnz -32768,F`. -/
theorem test_brnz_most_negative_offset :
    after { start [] with pc := 0x10000 } 0x00800146 (fun t => t.pc) = some 0x8000 := by
  decide +kernel

/-- `brgt 8,F`. -/
theorem test_brgt_both_set :
    after { start [] with cc := .ofBits 0b1010 } 0x000009D6 (fun t => (t.cc, t.pc)) = some (.ofBits 0b1010, 0x108) := by
  decide +kernel

/-- `brgt 8,F`. -/
theorem test_brgt_not_taken :
    after { start [] with cc := .ofBits 0b1000 } 0x000009D6 (fun t => (t.cc, t.pc)) = some (.ofBits 0b1000, 0x104) := by
  decide +kernel

/-- `brhi 8,F`. -/
theorem test_brhi_taken : after (start []) 0x00000996 (fun t => t.pc) = some 0x108 := by decide +kernel

/-- `brls 8,F`. -/
theorem test_brls_not_taken : after (start []) 0x00000986 (fun t => t.pc) = some 0x104 := by decide +kernel

/-- `brlo 0,F`. -/
theorem test_brlo_zero_offset :
    after { start [] with cc := .ofBits 0b1000 } 0x000001A6 (fun t => (t.cc, t.pc)) = some (.ofBits 0b1000, 0x100) := by
  decide +kernel

/-- `rtir`. -/
theorem test_rtir_leaves :
    after { start [(.ia, 0x2000)] with cs := { ivtp := 0x0, is := false, ie := true, ir := true } } 0x00000036
      (fun t => (t.cs, t.pc)) = some (⟨0x0, false, true, false⟩, 0x2000) := by
  decide +kernel

/-- `stie`. -/
theorem test_stie_sets :
    after (start []) 0x00000086 (fun t => t.cs) = some (⟨0x0, false, true, true⟩) := by
  decide +kernel

/-- `clie`. -/
theorem test_clie_keeps_is :
    after { start [] with cs := { ivtp := 0x0, is := true, ie := true, ir := true } } 0x00000096
      (fun t => t.cs) = some (⟨0x0, true, false, true⟩) := by
  decide +kernel

/-- `scie`. -/
theorem test_scie_saves :
    after { start [] with cs := { ivtp := 0x0, is := false, ie := true, ir := true } } 0x000000B6
      (fun t => t.cs) = some (⟨0x0, true, false, true⟩) := by
  decide +kernel

/-- `rsie`. -/
theorem test_rsie_in_application_mode :
    after { start [] with cs := { ivtp := 0x0, is := false, ie := true, ir := false } } 0x000000A6
      (fun t => t.cs) = some (⟨0x0, false, false, false⟩) := by
  decide +kernel

/-- `stop`. -/
theorem test_stop_stops : after (start []) 0x00000046 (fun t => t.stopped) = some true := by decide +kernel

/-- `move R1,EP`. -/
theorem test_move_to_ep_refused :
    refusalOf (start [(.r1, 0x1)]) 0xF401D800 = some .extensionRegister := by
  decide +kernel

/-- `ldlg (R8,4)*,R8`. -/
theorem test_ldlg_into_updated_an_refused :
    refusalOf { start [(.r8, 0x2000)] with dmem := [(0x2000, 0xBB), (0x2001, 0xAA), (0x2002, 0x99), (0x2003, 0x88), (0x2004, 0xFF), (0x2005, 0xEE), (0x2006, 0xDD), (0x2007, 0xCC)] } 0xF0044225 = some (.loadOverlap .r8) := by
  decide +kernel

/-- `ldlg 0x2000,CC`. -/
theorem test_ldlg_into_cc_refused :
    refusalOf { start [] with dmem := [(0x2000, 0xBB), (0x2001, 0xAA), (0x2002, 0x99), (0x2003, 0x88), (0x2004, 0xFF), (0x2005, 0xEE), (0x2006, 0xDD), (0x2007, 0xCC)] } 0xF0001664 = some (.forbiddenRegister .cc) := by
  decide +kernel

/-- `stlg CC,0x3000`. -/
theorem test_stlg_cc_refused :
    refusalOf (start []) 0xF0001E74 = some (.forbiddenRegister .cc) := by
  decide +kernel

/-- `ldlg (R8)+,(R8,R9)`. -/
theorem test_ldlg_selection_with_an_refused :
    refusalOf { start [(.r8, 0x2000)] with dmem := [(0x2000, 0xBB), (0x2001, 0xAA), (0x2002, 0x99), (0x2003, 0x88), (0x2004, 0xFF), (0x2005, 0xEE), (0x2006, 0xDD), (0x2007, 0xCC)] } 0x0806C025 = some (.loadOverlap .r8) := by
  decide +kernel

/-- `ldlg (R8)+,()`. -/
theorem test_ldlg_empty_selection_refused :
    refusalOf { start [(.r8, 0x2000)] with dmem := [(0x2000, 0xBB), (0x2001, 0xAA), (0x2002, 0x99), (0x2003, 0x88), (0x2004, 0xFF), (0x2005, 0xEE), (0x2006, 0xDD), (0x2007, 0xCC)] } 0x0800C025 = some .emptySelection := by
  decide +kernel

/-- `rtir`. -/
theorem test_rtir_in_application_mode_refused :
    refusalOf { start [(.ia, 0x2000)] with cs := { ivtp := 0x0, is := false, ie := false, ir := false } } 0x00000036 = some .returnOutsideInterrupt := by
  decide +kernel

/-- `svpc`. -/
theorem test_svpc_fetched_refused :
    refusalOf (start []) 0x00000066 = some .debugOnly := by
  decide +kernel

/-- `rspc`. -/
theorem test_rspc_fetched_refused :
    refusalOf (start []) 0x00000076 = some .debugOnly := by
  decide +kernel

/-! ### Events at a boundary (60_exceptions.md; 95_test_vectors.md programs 3 and 4) -/

/-- What a field holds after one step under the inputs given. -/
def under {α : Type} (s : State) (inp : Inputs) (f : State → α) : Option α :=
  match step { s with inputs := [inp] } with
  | .next t => some (f t)
  | _ => none

/-- Program 3 before step 14: the application, interrupts enabled, CC = N--C, vector 3 at 0x100C holds 0x400. -/
def interrupted : State :=
  { start [] with
    pc := 0x208, cc := .ofBits 0b1001, dmem := [(0x1001, 0x03), (0x100D, 0x04)]
    cs := { ivtp := 0x40, is := false, ie := true, ir := false } }

/-- Program 3, step 14: IRN = 3 is acknowledged at the boundary. -/
theorem test_interrupt_entry :
    under interrupted { Inputs.quiet with irq := true, irn := 3 } (fun t => (t.pc, t.readReg .ia, t.cs.ir, t.hcc, t.iack)) =
      some (0x400, 0x208, true, .ofBits 0b1001, some 3) := by
  decide +kernel

/-- A stop request goes before an interrupt request at one boundary (60_exceptions.md R331). -/
theorem test_stop_request_first :
    under interrupted { Inputs.quiet with irq := true, irn := 3, strq := true } (fun t => (t.stopped, t.pc, t.iack)) =
      some (true, 0x208, none) := by
  decide +kernel

/-- In system mode a request stays pending: the step runs the instruction at pc, here mult R0,R0,R0 under a false
condition. -/
theorem test_request_pending :
    under { interrupted with cs := { interrupted.cs with ir := true } } { Inputs.quiet with irq := true, irn := 3 }
      (fun t => (t.pc, t.iack)) = some (0x20C, none) := by
  decide +kernel

/-- Reset with IRN = 5 (70_reset_and_hazards.md R370). -/
theorem test_reset_event :
    under interrupted { Inputs.quiet with reset := true, irn := 5 } (fun t => (t.pc, t.cs.ir, t.cs.ie, t.cc)) =
      some (0x50000000, true, false, .ofBits 0b0000) := by
  decide +kernel

/-- A reset does not write IA (70_reset_and_hazards.md R370). -/
theorem test_reset_keeps_ia :
    under { interrupted with ia := 0x45 } { Inputs.quiet with reset := true, irn := 5 } (fun t => t.readReg .ia) =
      some 0x114 := by
  decide +kernel

/-- A platform: a device at 0x5000, ROM at 0x6000, nothing at 0x7000 (20_memory.md R69, R72, R73). -/
def onPlatform (s : State) : State :=
  { s with
    params := { s.params with dataMap := [⟨0x5000, 16, .device⟩, ⟨0x6000, 16, .rom⟩, ⟨0x7000, 16, .absent⟩] }
    dmem := [(0x6000, 0xAB)] }

/-- `stlg R1,0x5004` reaches the device: the write goes out on the bus and no memory changes. -/
theorem test_stlg_to_device :
    after (onPlatform (start [(.r1, 0x11223344)])) 0xF0042874
      (fun t => (t.dmem, t.bus.getLast?.map fun b => (b.written, b.addr))) =
      some ([(0x6000, 0xAB)], some (some 0x11223344, 0x5004)) := by
  decide +kernel

/-- `ldlg 0x5004,R1` reaches the device: the load completes, signals a read and changes no memory. -/
theorem test_ldlg_from_device :
    after (onPlatform (start [])) 0xF0042864
      (fun t => (t.dmem, t.pc, t.bus.getLast?.map fun b => (b.written, b.addr))) =
      some ([(0x6000, 0xAB)], 0x104, some (none, 0x5004)) := by
  decide +kernel

/-- `stlg R1,0x6000` reaches ROM, which keeps its bytes. -/
theorem test_stlg_to_rom :
    after (onPlatform (start [(.r1, 0x11223344)])) 0xF0003074 (fun t => t.dmem) = some [(0x6000, 0xAB)] := by
  decide +kernel

/-- `ldlg 0x7000,R1` finds nothing there. -/
theorem test_ldlg_absent :
    (match step ((onPlatform (start [])).withFetchWord 32 0xF0003864) with
      | .fault f => some f
      | _ => none) = some (.absentData 0x7000) := by
  decide +kernel

/-- Program 1 at its stop. -/
def atStop : State := { start [(.r0, 0x37)] with stopped := true, pc := 0x1C, lia := 0x18 }

/-- Program 4: svpc injected under `SVPC_VALUE` = resume. -/
theorem test_svpc_injected :
    under atStop { Inputs.quiet with inji := some 0x00000066 } (fun t => (t.dbo, t.pc, t.stopped)) =
      some (0x1C, 0x1C, true) := by
  decide +kernel

/-- Program 4: svpc injected under `SVPC_VALUE` = last. -/
theorem test_svpc_last :
    under { atStop with params := { atStop.params with svpcValue := .last } }
      { Inputs.quiet with inji := some 0x00000066 } (fun t => t.dbo) = some 0x18 := by
  decide +kernel

/-- Program 4: rspc injected with DBI = 3 drops the two low bits. -/
theorem test_rspc_injected :
    under atStop { Inputs.quiet with inji := some 0x00000076, dbi := some 3 } (fun t => (t.pc, t.stopped)) =
      some (0, true) := by
  decide +kernel

/-- Program 4: an injected store leaves pc. -/
theorem test_store_injected :
    under { atStop with gprs := atStop.gprs.set 8 0x3000 } { Inputs.quiet with inji := some 0xF000C034 }
      (fun t => (t.dmem, t.pc)) = some ([(0x3000, 0x37)], 0x1C) := by
  decide +kernel

/-- Released after STRQ has been seen asserted and then de-asserted (60_exceptions.md R346). -/
theorem test_release :
    under { atStop with strqSeen := true } Inputs.quiet (fun t => (t.stopped, t.pc)) = some (false, 0x1C) := by
  decide +kernel

/-- The comparators' stop opcode in place of the fetched word (60_exceptions.md R347). -/
theorem test_breakpoint :
    under (start []) { Inputs.quiet with breakpoint := true } (fun t => (t.stopped, t.pc)) = some (true, 0x104) := by
  decide +kernel

/-- The word placed by `withFetchWord` is the first instruction after reset. -/
theorem test_first_instruction :
    (match step (State.reset.withFetchWord 32 0x00000046) with
      | .next t => (t.stopped, t.pc)
      | _ => (false, 0)) = (true, 4) := by
  decide +kernel

/-- The decoder on a table word. -/
theorem test_decodeTableWord :
    decodeTableWord 32 0x00000086 = some .stie ∧ decodeTableWord 32 0x00000007 = none := by
  decide +kernel

/-! ### Witnesses: for each statement with hypotheses, a state and operands that meet them -/

/-- A condition that holds and a defined one that does not, in the same state: both hypotheses of `UnderCondition`. -/
abbrev BothWays (s : State) : Prop :=
  condHolds .inz s.cc = true ∧ Cond.defined .izr = true ∧ condHolds .izr s.cc = false

/-- An outcome that is a next state with a property. -/
theorem next_of {r : Result} (p : State → Bool)
    (h : (match r with | .next t => p t | _ => false) = true) : ∃ t, r = .next t ∧ p t = true := by
  cases r with
  | next t => exact ⟨t, rfl, h⟩
  | fault _ => simp at h
  | refused _ => simp at h

/-- An outcome that is a next state. -/
theorem is_next {r : Result} (h : (match r with | .next _ => true | _ => false) = true) : ∃ t, r = .next t := by
  obtain ⟨t, h, -⟩ := next_of (fun _ => true) h
  exact ⟨t, h⟩

/-- A running state whose step is a stop, fetched from the last word of the instruction space. -/
def atTop : State := ({ start [] with pc := 0xFFFFFFFC } : State).withFetchWord 32 0x00000046

/-- The same in application mode, interrupts enabled. -/
def application : State := { atTop with cs := { atTop.cs with ir := false, ie := true } }

/-- A stopped state. -/
def halted : State := { start [] with stopped := true }

theorem witness_EncodeDecode : decode 0x00000046 = .ok .stop := by decide +kernel

theorem witness_UnassignedRefused :
    ∃ s : State, Undisturbed s ∧ s.nextInputs.breakpoint = false ∧ s.fetchStop (wordAligned s.pc) = none ∧
      ∀ r ∈ opcodeTable, r.accepts (s.codeWord (wordAligned s.pc)) = false :=
  ⟨State.reset.withFetchWord 32 0x00000056, ⟨by decide +kernel, by decide +kernel, by decide +kernel, by decide +kernel⟩,
    by decide +kernel, by decide +kernel, by decide +kernel⟩

theorem witness_StepKeepsInv : ∃ s t : State, Inv s ∧ step s = .next t :=
  let ⟨t, h⟩ := is_next (r := step atTop) (by decide +kernel)
  ⟨atTop, t, ⟨by decide +kernel, by decide +kernel, by decide +kernel, by decide +kernel, by decide +kernel,
    by decide +kernel⟩, h⟩

/-- A decoded word, and a word that the comparators replace. -/
theorem witness_StepRunsDecoded :
    (Undisturbed atTop ∧ atTop.fetchStop (wordAligned atTop.pc) = none ∧ atTop.nextInputs.breakpoint = false ∧
      decode (atTop.codeWord (wordAligned atTop.pc)) = .ok .stop) ∧
      let s : State := { start [] with inputs := [{ Inputs.quiet with breakpoint := true }] }
      Undisturbed s ∧ s.fetchStop (wordAligned s.pc) = none ∧ s.nextInputs.breakpoint = true :=
  ⟨⟨⟨by decide +kernel, by decide +kernel, by decide +kernel, by decide +kernel⟩, by decide +kernel, by decide +kernel,
    by decide +kernel⟩, ⟨rfl, rfl, rfl, rfl⟩, by decide +kernel, rfl⟩

/-- IRN at both ends of its range. -/
theorem witness_ResetEvent :
    (({ start [] with inputs := [{ Inputs.quiet with reset := true, irn := 0 }] } : State).nextInputs.reset = true) ∧
      ({ start [] with inputs := [{ Inputs.quiet with reset := true, irn := 15 }] } : State).nextInputs.reset = true :=
  ⟨rfl, rfl⟩

theorem witness_AddtSum : BothWays (start []) := by decide
theorem witness_AddcSum : BothWays (start []) := by decide
theorem witness_SubfDifference : BothWays (start []) := by decide
theorem witness_SubcDifference : BothWays (start []) := by decide
theorem witness_UnflaggedArithmetic : BothWays (start []) := by decide
theorem witness_AndParity : BothWays (start []) := by decide
theorem witness_OrXorInvert : BothWays (start []) := by decide
theorem witness_BitTest : BothWays (start []) := by decide
theorem witness_Products : BothWays (start []) := by decide
theorem witness_ByteOrder : BothWays (start []) := by decide

/-- The counts 0 (no zero on top), 31 and 32 of clzr, under a condition that holds. -/
theorem witness_LeadingZeros :
    BothWays (start []) ∧ (0x80000000#32).getMsbD 0 = true ∧ (1#32).getMsbD 31 = true ∧
      (start [(.r1, 0)]).gprs[(1 : Gpr)] = 0 := by
  decide +kernel

theorem witness_DoubleWordAdd : (0 : Gpr) ≠ 2 ∧ (0 : Gpr) ≠ 3 ∧ (0 : Gpr) ≠ 1 := by decide

/-- The counts 0 and 31, as a constant and modulo 32 from a register. -/
theorem witness_ShiftsAndRotate :
    BothWays (start []) ∧ (0#5).toNat = 0 ∧ (31#5).toNat = 31 ∧
      (start [(.r1, 0xFFFFFFE0)]).gprs[(1 : Gpr)].toNat % 32 = 0 := by
  decide +kernel

/-- The index at both ends: bit 0 and bit 31 are the changed bit, the others are not. -/
theorem witness_BitChanges : BothWays (start []) ∧ 0 < 32 ∧ 31 < 32 ∧ (0#5).toNat = 0 ∧ (31#5).toNat = 31 := by decide

theorem witness_RefusedOperands :
    (computeOperands (.addtTri .r0 .lc .r1 .alw) = some [.r0, .lc, .r1] ∧ ∃ r ∈ [Reg.r0, .lc, .r1], r.isGpr = false) ∧
      Reg.cc ∈ [Reg.cc, .cs, .ep, .ia, .id] ∧ Reg.id ∈ [Reg.cc, .cs, .ep, .ta, .sa, .ia, .id] ∧
      Reg.lc ∉ [Reg.cc, .cs, .ep, .ia, .id] ∧
      condOf (.moveDual .r0 .r1 .undef) = some .undef ∧ (start []).params.ep = .refused := by
  decide

/-- A false condition in front of a protected destination in application mode. -/
theorem witness_FalseConditionIdles :
    (Instr.moveDual .r1 .ia .izr).wellFormed = true ∧ condOf (.moveDual .r1 .ia .izr) = some .izr ∧
      condHolds .izr application.cc = false ∧ application.cs.ir = false := by
  decide +kernel

/-- CS in system mode, R3 in application mode, and EP where the parameter gives it a behaviour. -/
theorem witness_MoveWrites :
    BothWays (start []) ∧ ((start []).cs.ir = true ∧ EpUsable (start []) [.r1, .cs]) ∧
      (application.cs.ir = false ∧ Reg.r3 ≠ .cs ∧ Reg.r3 ≠ .ia ∧ EpUsable application [.r1, .r3]) ∧
      EpUsable { start [] with params := { (start []).params with ep := .storage } } [.ep, .r1] :=
  ⟨by decide, ⟨rfl, by simp [EpUsable]⟩, ⟨rfl, by decide, by decide, by simp [EpUsable]⟩, fun _ => rfl⟩

theorem witness_DebugPortRead :
    (start []).cs.ir = true ∧ EpUsable (start []) [.cs] ∧ ({ start [] with dbi := some 7 } : State).dbi = some 7 ∧
      (start []).dbi = none :=
  ⟨rfl, by simp [EpUsable], rfl, rfl⟩

theorem witness_DebugPortWrite : EpUsable (start []) [.cs] := by simp [EpUsable]

/-- The last short and the last long of the space. -/
theorem witness_LittleEndian : 0xFFFFFFFE#32 &&& 1#32 = 0#32 ∧ 0xFFFFFFFC#32 &&& 3#32 = 0#32 := by decide

/-- Two accesses that share no byte. -/
theorem apart_of {l m : List Word} (h : (l.all fun a => !m.contains a) = true) : ∀ a ∈ l, a ∉ m := by
  intro a ha hm
  have := List.all_eq_true.1 h a ha
  simp [hm] at this

/-- Nothing but devices and ROM. -/
theorem no_ram {s : State} {l : List Word} (h : (l.all fun a => s.regionAt a != .ram) = true) :
    ∀ a ∈ l, s.regionAt a ≠ .ram := fun a ha => by simpa using List.all_eq_true.1 h a ha

/-- RAM at the last long of the space; two words next to each other, and address 0 beside the last word of the space;
a device and ROM. -/
theorem witness_WriteThenRead :
    Canonical (start []) ∧ (start []).AllRam 0xFFFFFFFC .long ∧
      ((∀ a ∈ Size.long.addresses 0x1004, a ∉ Size.long.addresses 0x1000) ∧
        ∀ a ∈ Size.byte.addresses 0, a ∉ Size.long.addresses 0xFFFFFFFC) ∧
      Canonical (onPlatform (start [])) ∧
      (∀ a ∈ Size.long.addresses 0x5000, (onPlatform (start [])).regionAt a ≠ .ram) ∧
      ∀ a ∈ Size.byte.addresses 0x600F, (onPlatform (start [])).regionAt a ≠ .ram :=
  ⟨⟨rfl, rfl⟩, fun _ _ => rfl, ⟨apart_of (by decide +kernel), apart_of (by decide +kernel)⟩,
    ⟨by decide +kernel, by decide +kernel⟩, no_ram (by decide +kernel), no_ram (by decide +kernel)⟩

/-- Each setting of `MISALIGNED`, a map with a device and ROM, and instruction memory with ROM. -/
theorem witness_AccessStops :
    let controlled : State := { start [] with params := { (start []).params with misaligned := .controller } }
    let mapped : State :=
      { start [] with params := { (start []).params with dataMap := [⟨0, 16, .device⟩, ⟨0xFFFFFFF0, 16, .rom⟩] } }
    (mapped.params.misaligned = .ignore ∧ mapped.params.codeWindow = none ∧
      ∀ r ∈ mapped.params.dataMap, r.kind ≠ .absent) ∧
      (controlled.params.misaligned = .controller ∧ Size.short.align 0xFFFFFFFF ≠ 0xFFFFFFFF ∧ Size.long.align 1 ≠ 1) ∧
      ∀ r ∈ ({ controlled with params := { controlled.params with codeMap := [⟨0, 16, .rom⟩] } } : State).params.codeMap,
        r.kind = .ram ∨ r.kind = .rom := by
  decide +kernel

/-- An update-mode load at the last byte of the space, and a mode without update. -/
theorem witness_SingleLoads :
    (LoadKind.bs.form (.update 8 0xFFF) .sa .inz).wellFormed = true ∧
      (start [(.r8, 0xFFFFFFFF)]).accessStop false
        ((AddrMode.update 8 0xFFF).eda .byte (start [(.r8, 0xFFFFFFFF)])) .byte = none ∧
      BothWays (start [(.r8, 0xFFFFFFFF)]) ∧
      (AddrMode.update 8 0xFFF).updated (start [(.r8, 0xFFFFFFFF)]) = some (.r8, 0xFFFFFFFE) ∧
      (AddrMode.direct 0x8000).updated (start []) = none := by
  decide +kernel

theorem witness_SingleStores :
    Canonical (start [(.r8, 0xFFFFFFFF)]) ∧ (Size.long.form .lc (.regUpdate 8 .r8) .inz).wellFormed = true ∧
      (start [(.r8, 0xFFFFFFFF)]).accessStop true
        ((AddrMode.regUpdate 8 .r8).eda .long (start [(.r8, 0xFFFFFFFF)])) .long = none ∧
      BothWays (start [(.r8, 0xFFFFFFFF)]) ∧
      (AddrMode.regUpdate 8 .r8).updated (start [(.r8, 0xFFFFFFFF)]) = some (.r8, 0xFFFFFFFE) :=
  ⟨⟨rfl, rfl⟩, by decide +kernel, by decide +kernel, by decide +kernel, by decide +kernel⟩

/-- All 19 registers but An, loaded upwards across the end of the space. -/
theorem witness_SelectionLoads :
    (LoadKind.lg.rgsForm .up 8 0b1111111011111111111).wellFormed = true ∧
      (RgsMode.up.order 0b1111111011111111111).length = 18 ∧
      ∀ i, i < 18 → (start [(.r8, 0xFFFFFFFC)]).accessStop false
        (RgsMode.up.eda .long ((start [(.r8, 0xFFFFFFFC)]).readReg (AReg.reg 8)) i) .long = none := by
  decide +kernel

/-- All 19 registers, An among them, stored downwards across address 0. -/
theorem witness_SelectionStores :
    Canonical (start [(.r8, 4)]) ∧ (Size.short.rgsForm .down (BitVec.allOnes 19) 8).wellFormed = true ∧
      (RgsMode.down.order (BitVec.allOnes 19)).length = 19 ∧
      ∀ i, i < 19 → (start [(.r8, 4)]).accessStop true
        (RgsMode.down.eda .short ((start [(.r8, 4)]).readReg (AReg.reg 8)) i) .short = none :=
  ⟨⟨rfl, rfl⟩, by decide +kernel, by decide +kernel, by decide +kernel⟩

theorem witness_PushThenPop :
    Canonical (start [(.rz, 4)]) ∧ (Instr.ldlgRgsi 7 (BitVec.allOnes 19)).wellFormed = true ∧
      (RegSel.registers (BitVec.allOnes 19)).length = 19 ∧
      ∀ i, i < 19 →
        (start [(.rz, 4)]).accessStop true
          (RgsMode.down.eda .long ((start [(.rz, 4)]).readReg (AReg.reg 7)) i) .long = none ∧
        (start [(.rz, 4)]).AllRam (RgsMode.down.eda .long ((start [(.rz, 4)]).readReg (AReg.reg 7)) i) .long :=
  ⟨⟨rfl, rfl⟩, by decide +kernel, by decide +kernel, fun i h => ⟨by revert i; decide +kernel, fun _ _ => rfl⟩⟩

/-- RZ and LC as update register, and An in the selection. -/
theorem witness_RefusedLoads :
    (Reg.rz.isGpr = true ∧ Reg.lc.isGpr = false) ∧ RegSel.holds 0b0000000100000000000 (AReg.reg 8) = true := by
  decide

theorem witness_JumpsAndReturns : (start []).stopped = false := by decide
theorem witness_LoopBranch : (start [(.lc, 1)]).stopped = false ∧ (start [(.lc, 1)]).lc = 1 := by decide +kernel
theorem witness_FlagBranches : (start []).stopped = false := by decide
theorem witness_ComparisonBranches : (start []).stopped = false := by decide

/-- System mode before and after an interrupt entry, and application mode. -/
theorem witness_ReturnFromInterrupt :
    (start []).stopped = false ∧ (start []).cs.ir = true ∧ (start []).hccSaved = false ∧
      ({ start [] with hccSaved := true } : State).hccSaved = true ∧ application.stopped = false ∧
      application.cs.ir = false := by
  decide +kernel

/-- `IEOPS_IN_AOM` at both values, `SECEXC_NEEDS_IE` at both values. -/
theorem witness_InterruptEnable :
    (start []).cs.ir = true ∧ application.params.ieOps = .execute ∧
      let s : State := { application with params := { application.params with ieOps := .securityException } }
      s.params.ieOps = .securityException ∧ s.cs.ir = false ∧ s.stopped = false ∧ s.cs.ie = true ∧
        s.accessStop false (vectorEntry s 0) .long = none ∧ ({ s with stopped := true } : State).stopped = true ∧
        let masked : State := { s with params := { s.params with secExcNeedsIe := true }, cs := { s.cs with ie := false } }
        masked.params.ieOps = .securityException ∧ masked.cs.ir = false ∧ masked.stopped = false ∧
          masked.params.secExcNeedsIe = true ∧ masked.cs.ie = false := by
  decide +kernel

theorem witness_StopInstruction : (start []).stopped = false ∧ halted.stopped = true := by decide

theorem witness_DebugProgramCounter :
    halted.stopped = true ∧ halted.params.svpcValue = .resume ∧
      ({ halted with params := { halted.params with svpcValue := .last } } : State).params.svpcValue = .last ∧
      ({ halted with dbi := some 0xFFFFFFFF } : State).dbi = some 0xFFFFFFFF ∧ (start []).stopped = false := by
  decide +kernel

/-- A request to a running core; a stopped core with nothing requested. -/
theorem witness_StoppedState :
    let s : State := { start [] with inputs := [{ Inputs.quiet with strq := true }] }
    (s.nextInputs.reset = false ∧ s.stopped = false ∧ s.nextInputs.strq = true) ∧
      halted.nextInputs.reset = false ∧ halted.stopped = true ∧ halted.nextInputs.inji = none ∧
      halted.nextInputs.pokes = [] := by
  decide +kernel

/-- An injected mtdp, and an injected jump. -/
theorem witness_Injection :
    let s (w : Word) : State := { halted with inputs := [{ Inputs.quiet with inji := some w }] }
    ((s 0x0C050000).nextInputs.reset = false ∧ (s 0x0C050000).stopped = true ∧
      (s 0x0C050000).nextInputs.inji = some 0x0C050000 ∧ decode 0x0C050000 = .ok (.mtdp .r5) ∧
      Instr.mtdp .r5 ≠ .rspc) ∧ decode 0x00000006 = .ok .jumpImp ∧ setsPc .jumpImp = true := by
  decide +kernel

theorem witness_Injection_next :
    ∃ t, step { halted with inputs := [{ Inputs.quiet with inji := some 0x0C050000 }] } = .next t :=
  is_next (by decide +kernel)

/-- The first and the last vector. -/
theorem witness_ExternalInterrupt :
    let s (n : BitVec 4) : State := { application with inputs := [{ Inputs.quiet with irq := true, irn := n }] }
    (∀ n, (s n).nextInputs.reset = false ∧ (s n).nextInputs.strq = false ∧ (s n).nextInputs.irq = true ∧
      (s n).nextInputs.irn = n ∧ (s n).stopped = false ∧ (s n).cs.ie = true ∧ (s n).cs.ir = false) ∧
      (s 0).accessStop false (vectorEntry (s 0) 0) .long = none ∧
      (s 15).accessStop false (vectorEntry (s 15) 15) .long = none :=
  ⟨fun _ => ⟨rfl, rfl, rfl, rfl, rfl, rfl, rfl⟩, by decide +kernel, by decide +kernel⟩

/-- move to CS and mfdp to IA. -/
theorem witness_SecurityException :
    ((Instr.moveDual .r1 .cs .inz).wellFormed = true ∧ moveDest (.moveDual .r1 .cs .inz) = some .cs ∧
      condOf (.moveDual .r1 .cs .inz) = some .inz ∧ condHolds .inz application.cc = true) ∧
      ((Instr.mfdp .ia).wellFormed = true ∧ moveDest (.mfdp .ia) = some .ia ∧ condOf (.mfdp .ia) = none) ∧
      application.cs.ir = false ∧ application.stopped = false ∧ application.cs.ie = true ∧
      application.params.secExcIa = .offender ∧
      application.accessStop false (vectorEntry application 0) .long = none ∧
      (({ application with stopped := true } : State).stopped = true ∧
        ({ application with stopped := true } : State).cs.ir = false) ∧
      let masked : State :=
        { application with
          params := { application.params with secExcNeedsIe := true }, cs := { application.cs with ie := false } }
      masked.cs.ir = false ∧ masked.stopped = false ∧ masked.params.secExcNeedsIe = true ∧ masked.cs.ie = false := by
  decide +kernel

/-- A comparison that changes CC, an interrupt entry and a security exception. -/
theorem witness_FlagWriters :
    (∃ t, exec (.compCmpr .r0 .r0) (start []) = .next t ∧ (t.cc != (start []).cc) = true) ∧
      (∃ t, externalInterrupt 3 application = .next t) ∧ ∃ t, securityException application = .next t :=
  ⟨next_of _ (by decide +kernel), is_next (by decide +kernel), is_next (by decide +kernel)⟩

/-- The interrupt entry of program 3 changes the hidden flags. -/
theorem witness_HiddenFlags :
    let s : State := { interrupted with inputs := [{ Inputs.quiet with irq := true, irn := 3 }] }
    s.nextInputs.reset = false ∧
      ∃ t, step s = .next t ∧ (t.hcc != s.hcc && t.hccSaved != s.hccSaved) = true :=
  ⟨rfl, next_of (fun t => t.hcc != interrupted.hcc && t.hccSaved != interrupted.hccSaved) (by decide +kernel)⟩

/-- IE, IS, IVTP and IR each change under one of their writers, IR both ways. -/
theorem witness_StatusWriters :
    (∃ t, exec .stie (start []) = .next t ∧ t.cs.ie = true) ∧ (start []).cs.ie = false ∧
      (∃ t, exec .scie application = .next t ∧ t.cs.is = true) ∧ application.cs.is = false ∧
      (∃ t, exec (.moveDual .r1 .cs .alw) (start [(.r1, 0x40)]) = .next t ∧ (t.cs.ivtp == 1) = true) ∧
      (start [(.r1, 0x40)]).cs.ivtp = 0 ∧
      (∃ t, exec .rtir (start []) = .next t ∧ (!t.cs.ir) = true) ∧ (start []).cs.ir = true ∧
      (∃ t, exec (.moveDual .r1 .cs .alw) application = .next t ∧ t.cs.ir = true) ∧ application.cs.ir = false :=
  ⟨next_of _ (by decide +kernel), by decide +kernel, next_of _ (by decide +kernel), by decide +kernel,
    next_of _ (by decide +kernel), by decide +kernel, next_of _ (by decide +kernel), by decide +kernel,
    next_of _ (by decide +kernel), by decide +kernel⟩

theorem witness_ApplicationModeProtection :
    application.cs.ir = false ∧ application.nextInputs.reset = false ∧
      ∃ t, step application = .next t ∧ (!t.cs.ir) = true :=
  ⟨by decide +kernel, by decide +kernel, next_of _ (by decide +kernel)⟩

/-- Where an interrupt entry has written the hidden flags, rtir leaves system mode. -/
def returning : State := State.withFetchWord { start [] with hccSaved := true } 32 0x00000036

theorem witness_SystemModeLeftByReturn :
    returning.cs.ir = true ∧ ∃ t, step returning = .next t ∧ (!t.cs.ir) = true :=
  ⟨by decide +kernel, next_of _ (by decide +kernel)⟩

theorem witness_CodeAndPartFixed : (∃ t, step atTop = .next t) ∧ atTop.stopped = false :=
  ⟨is_next (by decide +kernel), by decide +kernel⟩

theorem witness_OnlyStoresWrite :
    (∃ t, exec (.ldlgLsd 0x2000 .r1 .alw) (start []) = .next t) ∧
      (∀ sz m rs cnd, Instr.ldlgLsd 0x2000 .r1 .alw ≠ Size.form sz rs m cnd) ∧
      ∀ sz d sel an, Instr.ldlgLsd 0x2000 .r1 .alw ≠ Size.rgsForm sz d sel an :=
  ⟨is_next (by decide +kernel), fun sz m rs cnd => by cases sz <;> cases m <;> simp [Size.form],
    fun sz d sel an => by cases sz <;> cases d <;> simp [Size.rgsForm]⟩

end Sys2Proof.Tests
end

/-! SUPPORT for the statements about the state (10_state.md): what each result state leaves alone, what every instruction
keeps, how CC, CS and the hidden flags can change, and which operands are refused. -/

namespace Sys2Proof.Machine

/-! ### CC and CS together -/

/-- CC and CS are as before. -/
structure KeepsStatus (s t : State) : Prop where
  cc : t.cc = s.cc
  cs : t.cs = s.cs

theorem KeepsStatus.trans {s t u : State} (h : KeepsStatus s t) (h' : KeepsStatus t u) : KeepsStatus s u :=
  ⟨h'.cc.trans h.cc, h'.cs.trans h.cs⟩

theorem writeReg_cc_of_ne {r : Reg} (s : State) (v : Word) (h : r ≠ .cc) : (s.writeReg r v).cc = s.cc := by
  cases r with
  | cc => exact absurd rfl h
  | _ => rfl

theorem writeReg_cs_of_ne {r : Reg} (s : State) (v : Word) (h : r ≠ .cs) : (s.writeReg r v).cs = s.cs := by
  cases r with
  | cs => exact absurd rfl h
  | _ => rfl

/-- A register that loads and stores may transfer is neither CC nor CS (41_load_store.md R171). -/
theorem KeepsStatus.writeReg {r : Reg} (s : State) (v : Word) (h : r.canTransfer = true) :
    KeepsStatus s (s.writeReg r v) :=
  ⟨writeReg_cc_of_ne s v fun e => by simp [e, Reg.canTransfer] at h,
    writeReg_cs_of_ne s v fun e => by simp [e, Reg.canTransfer] at h⟩

/-- The update of An writes a general register, if any. -/
theorem KeepsStatus.applyUpdate (s src : State) (m : AddrMode) : KeepsStatus s (s.applyUpdate (m.updated src)) := by
  cases m <;> exact ⟨rfl, rfl⟩

/-! ### The result states of loads and stores -/

/-- What a single-register load leaves alone: everything but registers, the bus trace and the counter of free values. -/
theorem State.loaded_frame (s : State) (k : LoadKind) (rd : Reg) (m : AddrMode) :
    let t := s.loaded k rd m
    KeepsRest { s with draws := t.draws } t ∧ t.dmem = s.dmem ∧ t.imem = s.imem ∧ t.pc = s.pc := by
  refine ⟨⟨?_, ?_, ?_, ?_, ?_, ?_, ?_, ?_, ?_, rfl, ?_⟩, ?_, ?_, ?_⟩ <;> simp [State.loaded]

/-- What an RGS load leaves alone. -/
theorem State.loadedSelection_frame (s : State) (k : LoadKind) (d : RgsMode) (an : AReg) (sel : RegSel) :
    let t := s.loadedSelection k d an sel
    KeepsRest { s with draws := t.draws } t ∧ t.dmem = s.dmem ∧ t.imem = s.imem ∧ t.pc = s.pc := by
  obtain ⟨h, hd, hi, hp⟩ := s.loadElements_frame k (d.transfers k.size an sel s)
  exact ⟨⟨h.hcc, h.hccSaved, h.stopped, h.strqSeen, h.lia, h.dbo, h.iack, h.inputs, h.dbi, rfl, h.params⟩, hd, hi, hp⟩

/-- What a single-register store leaves alone: everything but An, the bus trace and memory. -/
theorem State.stored_frame (s : State) (z : Size) (rs : Reg) (m : AddrMode) :
    KeepsRest s (s.stored z rs m) ∧ (s.stored z rs m).pc = s.pc := by
  refine ⟨⟨?_, ?_, ?_, ?_, ?_, ?_, ?_, ?_, ?_, ?_, ?_⟩, ?_⟩ <;> simp [State.stored]

/-- What an RGS store leaves alone. -/
theorem State.storedSelection_frame (s : State) (z : Size) (d : RgsMode) (sel : RegSel) (an : AReg) :
    KeepsRest s (s.storedSelection z d sel an) ∧ (s.storedSelection z d sel an).pc = s.pc := by
  obtain ⟨h, -, -, hp⟩ := State.storeElements_frame s z (d.transfers z an sel s) s
  exact ⟨⟨h.hcc, h.hccSaved, h.stopped, h.strqSeen, h.lia, h.dbo, h.iack, h.inputs, h.dbi, h.draws, h.params⟩, hp⟩

theorem State.stored_canonical (s : State) (z : Size) (rs : Reg) (m : AddrMode) (h : Canonical s) :
    Canonical (s.stored z rs m) := by
  obtain ⟨hd, hi⟩ := State.memWrite_wf (s.signal (s.dataAccess (some (z.lowBytes (s.readReg rs))) (m.eda z s) z))
    (m.eda z s) z (s.readReg rs) h.data h.code
  exact ⟨by simpa [State.stored] using hd, by simpa [State.stored] using hi⟩

theorem State.storedSelection_canonical (s : State) (z : Size) (d : RgsMode) (sel : RegSel) (an : AReg)
    (h : Canonical s) : Canonical (s.storedSelection z d sel an) := by
  obtain ⟨hd, hi⟩ := State.storeElements_wf s z (d.transfers z an sel s) s h
  exact ⟨hd, hi⟩

theorem canTransfer_of_loadRefusal {rd : Reg} {m : AddrMode} (h : loadRefusal rd m = none) : rd.canTransfer = true := by
  by_contra hc
  simp [loadRefusal, accessRefusal, hc] at h

theorem RgsMode.canTransfer_of_mem_order {d : RgsMode} {sel : RegSel} {r : Reg} (h : r ∈ d.order sel) :
    r.canTransfer = true := by
  have all : ∀ q ∈ RegSel.order, q.canTransfer = true := by decide
  exact all r ((d.mem_order sel r).1 h).1

theorem State.loaded_status (s : State) (k : LoadKind) {rd : Reg} {m : AddrMode} (h : loadRefusal rd m = none) :
    KeepsStatus s (s.loaded k rd m) := by
  have read : KeepsStatus s ((s.signal (s.dataAccess none (m.eda k.size s) k.size)).afterRead (m.eda k.size s) k.size) :=
    ⟨by simp, by simp⟩
  exact (read.trans (.writeReg _ _ (canTransfer_of_loadRefusal h))).trans (.applyUpdate _ s m)

theorem State.loadElement_status (k : LoadKind) (s : State) (p : Reg × Word) (h : p.1.canTransfer = true) :
    KeepsStatus s (State.loadElement k s p) := by
  have read : KeepsStatus s ((s.signal (s.dataAccess none p.2 k.size)).afterRead p.2 k.size) := ⟨by simp, by simp⟩
  exact read.trans (.writeReg _ _ h)

theorem State.loadElements_status (k : LoadKind) (ts : List (Reg × Word)) (s : State)
    (h : ∀ p ∈ ts, p.1.canTransfer = true) : KeepsStatus s (ts.foldl (State.loadElement k) s) := by
  induction ts generalizing s with
  | nil => exact ⟨rfl, rfl⟩
  | cons p ts ih =>
    obtain ⟨hp, hts⟩ := List.forall_mem_cons.1 h
    exact (State.loadElement_status k s p hp).trans (ih _ hts)

theorem State.loadedSelection_status (s : State) (k : LoadKind) (d : RgsMode) (an : AReg) (sel : RegSel) :
    KeepsStatus s (s.loadedSelection k d an sel) := by
  refine (State.loadElements_status k (d.transfers k.size an sel s) s fun p hp => ?_).trans (.writeReg _ _ rfl)
  apply RgsMode.canTransfer_of_mem_order (d := d) (sel := sel)
  rw [← d.transfers_fst k.size an sel s]
  exact List.mem_map_of_mem hp

theorem State.stored_status (s : State) (z : Size) (rs : Reg) (m : AddrMode) : KeepsStatus s (s.stored z rs m) :=
  KeepsStatus.trans ⟨by simp, by simp⟩ (.applyUpdate _ s m)

theorem State.storeElements_status (src : State) (z : Size) (ts : List (Reg × Word)) (s : State) :
    KeepsStatus s (ts.foldl (State.storeElement src z) s) := by
  induction ts generalizing s with
  | nil => exact ⟨rfl, rfl⟩
  | cons p ts ih =>
    have element : KeepsStatus s (State.storeElement src z s p) := by constructor <;> simp [State.storeElement]
    exact element.trans (ih _)

theorem State.storedSelection_status (s : State) (z : Size) (d : RgsMode) (sel : RegSel) (an : AReg) :
    KeepsStatus s (s.storedSelection z d sel an) :=
  (State.storeElements_status s z (d.transfers z an sel s) s).trans (.writeReg _ _ rfl)

/-! ### What every instruction keeps -/

/-- What no instruction changes, and the stopped state, which none leaves. -/
structure KeepsFixed (s t : State) : Prop where
  stopped : s.stopped = true → t.stopped = true
  strqSeen : t.strqSeen = s.strqSeen
  lia : t.lia = s.lia
  iack : t.iack = s.iack
  inputs : t.inputs = s.inputs
  dbi : t.dbi = s.dbi
  params : t.params = s.params

theorem KeepsRest.keepsFixed {s t : State} (h : KeepsRest { s with draws := t.draws } t) : KeepsFixed s t.advance :=
  ⟨fun hs => h.stopped.trans hs, h.strqSeen, h.lia, h.iack, h.inputs, h.dbi, h.params⟩

/-- The counter of free values may move where nothing else does. -/
theorem KeepsRest.anyDraws {s t : State} (h : KeepsRest s t) : KeepsRest { s with draws := t.draws } t :=
  ⟨h.hcc, h.hccSaved, h.stopped, h.strqSeen, h.lia, h.dbo, h.iack, h.inputs, h.dbi, rfl, h.params⟩

theorem exec_keepsFixed {i : Instr} {s t : State} (h : exec i s = .next t) : KeepsFixed s t := by
  cases exec_shape h with
  | trapped _ _ h =>
    obtain ⟨-, -, -, rfl⟩ := securityException_next h
    constructor <;> simp
  | loaded k m rd => exact (s.loaded_frame k rd m).1.keepsFixed
  | stored z m rs => exact (s.stored_frame z rs m).1.anyDraws.keepsFixed
  | loadedSelection k d an sel => exact (s.loadedSelection_frame k d an sel).1.keepsFixed
  | storedSelection z d an sel => exact (s.storedSelection_frame z d sel an).1.anyDraws.keepsFixed
  | _ => constructor <;> simp

theorem exec_canonical {i : Instr} {s t : State} (hc : Canonical s) (h : exec i s = .next t) : Canonical t := by
  have same {u : State} (hd : u.dmem = s.dmem) (hi : u.imem = s.imem) : Canonical u :=
    ⟨hd ▸ hc.data, hi ▸ hc.code⟩
  cases exec_shape h with
  | trapped _ _ h =>
    obtain ⟨-, -, -, rfl⟩ := securityException_next h
    exact same (by simp) (by simp)
  | loaded k m rd =>
    obtain ⟨-, hd, hi, -⟩ := s.loaded_frame k rd m
    exact same hd hi
  | loadedSelection k d an sel =>
    obtain ⟨-, hd, hi, -⟩ := s.loadedSelection_frame k d an sel
    exact same hd hi
  | stored z m rs =>
    obtain ⟨hd, hi⟩ := s.stored_canonical z rs m hc
    exact ⟨hd, hi⟩
  | storedSelection z d an sel =>
    obtain ⟨hd, hi⟩ := s.storedSelection_canonical z d sel an hc
    exact ⟨hd, hi⟩
  | _ => exact same (by simp) (by simp)

theorem advance_pc_aligned {s : State} (h : s.pc &&& 3#32 = 0#32) : s.advance.pc &&& 3#32 = 0#32 := by
  rw [advance_pc]
  split
  · exact h
  · exact aligned_add h rfl

/-- Every instruction leaves pc word aligned (10_state.md R47). -/
theorem exec_pc_aligned {i : Instr} {s t : State} (hp : s.pc &&& 3#32 = 0#32) (h : exec i s = .next t) :
    t.pc &&& 3#32 = 0#32 := by
  have next {u : State} (hu : u.pc = s.pc) : u.advance.pc &&& 3#32 = 0#32 := advance_pc_aligned (hu ▸ hp)
  cases exec_shape h with
  | trapped _ _ h =>
    obtain ⟨-, -, -, rfl⟩ := securityException_next h
    exact wordAligned_aligned _
  | loaded k m rd =>
    obtain ⟨-, -, -, hpc⟩ := s.loaded_frame k rd m
    exact next hpc
  | loadedSelection k d an sel =>
    obtain ⟨-, -, -, hpc⟩ := s.loadedSelection_frame k d an sel
    exact next hpc
  | stored z m rs => exact next (s.stored_frame z rs m).2
  | storedSelection z d an sel => exact next (s.storedSelection_frame z d sel an).2
  | jumped a _ _ ha => exact ha hp
  | linked a _ _ ha => exact ha
  | counted a _ _ ha => exact ha hp
  | returned => exact linkWord_aligned s.ia
  | restored => exact wordAligned_aligned s.dbiWord
  | halted => exact next rfl
  | reported => simpa using hp
  | _ => exact next (by simp)

/-! ### The invariant -/

theorem Inv.canonical {s : State} (h : Inv s) : Canonical s := ⟨h.dataCanonical, h.codeCanonical⟩

theorem exec_keeps_inv {i : Instr} {s t : State} (hs : Inv s) (h : exec i s = .next t) : Inv t := by
  have hc := exec_canonical hs.canonical h
  have hf := exec_keepsFixed h
  exact ⟨hc.data, hc.code, exec_pc_aligned hs.pcAligned h, hf.lia ▸ hs.liaAligned,
    fun hq => hf.stopped (hs.strq (hf.strqSeen ▸ hq)), hf.params ▸ hs.legal⟩

@[simp] theorem coldStart_lia (s : State) (n : BitVec 4) : (s.coldStart n).lia = 0 := rfl

theorem coldStart_inv {s : State} (irn : BitVec 4) (hs : Inv s) : Inv (s.coldStart irn) := by
  refine ⟨hs.dataCanonical, hs.codeCanonical, ?_, by rw [coldStart_lia]; decide, by simp, hs.legal⟩
  apply BitVec.eq_of_getLsbD_eq; intro i hi
  simp only [coldStart_pc, BitVec.getLsbD_and, BitVec.getLsbD_append]
  interval_cases i <;> simp

/-- The direct writes of the debug module and the STRQ bit of a stopped core keep the invariant. -/
theorem pokeAll_inv {s : State} (ps : List Poke) (q : Bool) (hs : Inv s) (hh : s.stopped = true) :
    Inv { s.pokeAll ps with strqSeen := q } := by
  obtain ⟨hd, hi⟩ := s.pokeAll_wf ps hs.dataCanonical hs.codeCanonical
  exact ⟨hd, hi, by simpa using hs.pcAligned, by simpa using hs.liaAligned, fun _ => by simpa using hh,
    by simpa using hs.legal⟩

theorem stoppedStep_inv {inp : Inputs} {s t : State} (hs : Inv s) (hh : s.stopped = true)
    (h : stoppedStep inp s = .next t) : Inv t := by
  have poked := pokeAll_inv inp.pokes (s.strqSeen || inp.strq) hs hh
  rcases stoppedStep_next h with ⟨w, i, -, -, h⟩ | ⟨-, -, -, rfl⟩ | ⟨-, -, rfl⟩
  · exact exec_keeps_inv poked h
  · exact ⟨poked.dataCanonical, poked.codeCanonical, poked.pcAligned, poked.liaAligned, by simp, poked.legal⟩
  · exact poked

theorem externalInterrupt_inv {n : BitVec 4} {s t : State} (hs : Inv s) (h : externalInterrupt n s = .next t) :
    Inv t := by
  obtain ⟨-, rfl⟩ := externalInterrupt_next h
  exact ⟨by simpa using hs.dataCanonical, by simpa using hs.codeCanonical, wordAligned_aligned _,
    by simpa using hs.liaAligned, by simpa using hs.strq, by simpa using hs.legal⟩

theorem fetched_inv {s : State} (hs : Inv s) : Inv s.fetched :=
  ⟨hs.dataCanonical, hs.codeCanonical, hs.pcAligned, hs.pcAligned, hs.strq, hs.legal⟩

/-- Settles O6, by the order of events in a step: each event keeps the invariant. -/
theorem stepKeepsInv : Obligations.StepKeepsInv := by
  intro s t hs h
  have hb : Inv s.begin := ⟨hs.dataCanonical, hs.codeCanonical, hs.pcAligned, hs.liaAligned, hs.strq, hs.legal⟩
  rcases step_next h with ⟨-, rfl⟩ | ⟨-, hh, h⟩ | ⟨-, -, -, rfl⟩ | ⟨-, -, -, -, -, -, h⟩ | ⟨-, -, -, h⟩
  · exact coldStart_inv _ hb
  · exact stoppedStep_inv hb hh h
  · exact ⟨hb.dataCanonical, hb.codeCanonical, hb.pcAligned, hb.liaAligned, fun _ => rfl, hb.legal⟩
  · exact externalInterrupt_inv hb h
  · obtain ⟨-, i, -, h⟩ := fetchRun_next h
    exact exec_keeps_inv (fetched_inv hb) h

/-- Settles O7: each part of the invariant is a closed fact about the reset state. -/
theorem invAtReset : Obligations.InvAtReset :=
  ⟨rfl, rfl, by decide, by decide, by simp [State.reset], by decide⟩

/-! ### The writers of CC -/

theorem securityException_cc {s t : State} (h : securityException s = .next t) : t.cc = s.cc := by
  obtain ⟨-, -, -, rfl⟩ := securityException_next h
  simp

theorem securityException_cs {s t : State} (h : securityException s = .next t) : t.cs = { s.cs with ir := true } := by
  obtain ⟨-, -, -, rfl⟩ := securityException_next h
  simp

/-- CC changes only under its writers (10_state.md R30). -/
theorem exec_cc {i : Instr} {s t : State} (h : exec i s = .next t) :
    t.cc = s.cc ∨ writesFlags i = true ∨ moveDest i = some .cc ∨ i = .rtir := by
  have write {u : State} {rd : Reg} (v : Word) (hu : u.cc = s.cc) (hd : moveDest i = some rd) :
      (u.writeReg rd v).advance.cc = s.cc ∨ writesFlags i = true ∨ moveDest i = some .cc ∨ i = .rtir := by
    by_cases hr : rd = .cc
    · exact .inr (.inr (.inl (hr ▸ hd)))
    · exact .inl ((writeReg_cc_of_ne u v hr).trans hu)
  cases exec_shape h with
  | flagged _ _ _ hw => exact .inr (.inl hw)
  | tested _ hw => exact .inr (.inl hw)
  | moved rd v hd => exact write v rfl hd
  | received rd v hd => exact write v (by simp) hd
  | trapped _ _ h => exact .inl (securityException_cc h)
  | loaded k m rd hr => exact .inl (s.loaded_status k hr).cc
  | stored z m rs => exact .inl (s.stored_status z rs m).cc
  | loadedSelection k d an sel => exact .inl (s.loadedSelection_status k d an sel).cc
  | storedSelection z d an sel => exact .inl (s.storedSelection_status z d sel an).cc
  | returned _ _ hi => exact .inr (.inr (.inr hi))
  | computed => exact .inl rfl
  | counted => exact .inl rfl
  | _ => exact .inl (by simp)

/-- Settles O54, from the shapes of an instruction's next state and of the two interrupt entries. -/
theorem flagWriters : Obligations.FlagWriters := by
  refine ⟨fun i s t h hne => (exec_cc h).resolve_left hne, fun n s t h => ?_, fun s t h => securityException_cc h⟩
  obtain ⟨-, rfl⟩ := externalInterrupt_next h
  simp

/-! ### The hidden flags -/

/-- The hidden flags are as before, or an interrupt has been entered from application mode and they hold CC
(10_state.md R31). -/
def HiddenFlagsRule (s t : State) : Prop :=
  (t.hcc = s.hcc ∧ t.hccSaved = s.hccSaved) ∨
    (s.cs.ir = false ∧ t.cs.ir = true ∧ t.hcc = s.cc ∧ t.hccSaved = true)

theorem exec_hiddenFlags {i : Instr} {s t : State} (h : exec i s = .next t) : HiddenFlagsRule s t := by
  cases exec_shape h with
  | trapped _ hm h =>
    obtain ⟨-, -, -, rfl⟩ := securityException_next h
    exact .inr ⟨hm, rfl, by simp, rfl⟩
  | loaded k m rd =>
    obtain ⟨hk, -⟩ := s.loaded_frame k rd m
    exact .inl ⟨hk.hcc, hk.hccSaved⟩
  | stored z m rs =>
    obtain ⟨hk, -⟩ := s.stored_frame z rs m
    exact .inl ⟨hk.hcc, hk.hccSaved⟩
  | loadedSelection k d an sel =>
    obtain ⟨hk, -⟩ := s.loadedSelection_frame k d an sel
    exact .inl ⟨hk.hcc, hk.hccSaved⟩
  | storedSelection z d an sel =>
    obtain ⟨hk, -⟩ := s.storedSelection_frame z d sel an
    exact .inl ⟨hk.hcc, hk.hccSaved⟩
  | _ => exact .inl ⟨by simp, by simp⟩

theorem stoppedStep_hiddenFlags {inp : Inputs} {s t : State} (h : stoppedStep inp s = .next t) :
    HiddenFlagsRule s t := by
  rcases stoppedStep_next h with ⟨w, i, -, -, h⟩ | ⟨-, -, -, rfl⟩ | ⟨-, -, rfl⟩
  · simpa [HiddenFlagsRule] using exec_hiddenFlags h
  · exact .inl ⟨by simp, by simp⟩
  · exact .inl ⟨by simp, by simp⟩

/-- Every step but reset treats the hidden flags by the rule. -/
theorem step_hiddenFlags {s t : State} (hr : s.nextInputs.reset = false) (h : step s = .next t) :
    HiddenFlagsRule s t := by
  rcases step_next h with ⟨h1, -⟩ | ⟨-, -, h⟩ | ⟨-, -, -, rfl⟩ | ⟨-, -, -, -, -, hm, h⟩ | ⟨-, -, -, h⟩
  · simp [hr] at h1
  · exact stoppedStep_hiddenFlags (s := s.begin) h
  · exact .inl ⟨rfl, rfl⟩
  · obtain ⟨-, rfl⟩ := externalInterrupt_next h
    exact .inr ⟨hm, rfl, rfl, rfl⟩
  · obtain ⟨-, i, -, h⟩ := fetchRun_next h
    exact exec_hiddenFlags (s := s.begin.fetched) h

/-- Settles O55: a change of the hidden flags leaves only the entry branch of their rule. -/
theorem hiddenFlags : Obligations.HiddenFlags := by
  intro s t hr h hne
  refine (step_hiddenFlags hr h).resolve_left fun ⟨hcc, hsaved⟩ => ?_
  exact hne.elim (· hcc) (· hsaved)

/-! ### The writers of CS -/

/-- What an instruction can make of CS (10_state.md R33 to R36). -/
inductive StatusChange (i : Instr) (s : State) : ControlStatus → Prop
  | kept : StatusChange i s s.cs
  /-- A move or mfdp to CS in system mode. -/
  | pointed (v : BitVec 26) (hd : moveDest i = some .cs) (hm : s.cs.ir = true) :
      StatusChange i s { s.cs with ivtp := v }
  /-- The security exception. -/
  | entered (hi : moveDest i = some .cs ∨ moveDest i = some .ia ∨
        (i ∈ [Instr.stie, .clie, .scie, .rsie] ∧ s.params.ieOps = .securityException)) (hm : s.cs.ir = false) :
      StatusChange i s { s.cs with ir := true }
  /-- rtir. -/
  | returned (hi : i = .rtir) (hm : s.cs.ir = true) : StatusChange i s { s.cs with ir := false }
  /-- stie, clie, rsie. -/
  | enabled (e : Bool) (hi : i ∈ [Instr.stie, .clie, .rsie]) : StatusChange i s { s.cs with ie := e }
  /-- scie. -/
  | saved (hi : i = .scie) : StatusChange i s { s.cs with is := s.cs.ie, ie := false }

/-- A write of CS that raises no security exception happens in system mode. -/
theorem State.system_of_not_protects {s : State} (h : s.protects .cs = false) : s.cs.ir = true := by
  simpa [State.protects] using h

theorem StatusChange.of_write {i : Instr} {s u : State} {rd : Reg} (v : Word) (hu : u.cs = s.cs)
    (hd : moveDest i = some rd) (hp : s.protects rd = false) : StatusChange i s (u.writeReg rd v).advance.cs := by
  by_cases hr : rd = .cs
  · subst hr
    have hw : (u.writeReg .cs v).advance.cs = { s.cs with ivtp := v.extractLsb' 6 26 } := by rw [← hu]; rfl
    rw [hw]
    exact .pointed _ hd (State.system_of_not_protects hp)
  · rw [advance_cs, writeReg_cs_of_ne u v hr, hu]
    exact .kept

theorem exec_statusChange {i : Instr} {s t : State} (h : exec i s = .next t) : StatusChange i s t.cs := by
  have same {c : ControlStatus} (hc : c = s.cs) : StatusChange i s c := hc ▸ .kept
  cases exec_shape h with
  | moved rd v hd hp => exact .of_write v rfl hd hp
  | received rd v hd hp => exact .of_write v (by simp) hd hp
  | trapped hi hm h =>
    rw [securityException_cs h]
    refine .entered ?_ hm
    rcases hi with ⟨rd, hd, rfl | rfl⟩ | hi
    · exact .inl hd
    · exact .inr (.inl hd)
    · exact .inr (.inr hi)
  | loaded k m rd hr => exact same (s.loaded_status k hr).cs
  | stored z m rs => exact same (s.stored_status z rs m).cs
  | loadedSelection k d an sel => exact same (s.loadedSelection_status k d an sel).cs
  | storedSelection z d an sel => exact same (s.storedSelection_status z d sel an).cs
  | returned _ hm hi => exact .returned hi hm
  | enabled e hi => exact .enabled e hi
  | saved hi => exact .saved hi
  | computed => exact .kept
  | flagged => exact .kept
  | counted => exact .kept
  | _ => exact same (by simp)

/-- Settles O56, by what an instruction can make of CS. -/
theorem statusWriters : Obligations.StatusWriters := by
  intro i s t h
  have hc := exec_statusChange h
  generalize t.cs = c at hc ⊢
  cases hc with
  | kept => simp +contextual
  | pointed v hd hm => simp [hd, hm]
  | entered hi hm => exact ⟨by simp, by simp, by simp, by simp [hm], fun _ _ => hi⟩
  | returned hi hm => simp [hi]
  | enabled e hi =>
    have hsub : [Instr.stie, .clie, .rsie] ⊆ [Instr.stie, .clie, .scie, .rsie] := by decide
    exact ⟨fun _ => hsub hi, by simp, by simp, by simp +contextual, by simp +contextual⟩
  | saved hi => simp +contextual [hi]

/-! ### Refused operands -/

/-- The forms with computation operands all run through `compute`; the others have none. -/
theorem exec_of_computeOperands {i : Instr} {regs : List Reg} (s : State) (h : computeOperands i = some regs) :
    ∃ c effect, exec i s = compute regs c s effect := by
  cases i
  all_goals cases h
  all_goals exact ⟨_, _, rfl⟩

/-- The forms with a CND operand all run through `conditional`; the others have none. -/
theorem exec_of_condOf {i : Instr} {c : Cond} (s : State) (h : condOf i = some c) :
    ∃ refusal effect, exec i s = conditional c refusal s effect := by
  cases i
  all_goals cases h
  all_goals exact ⟨_, _, rfl⟩

theorem exec_loadForm (k : LoadKind) (m : AddrMode) (rd : Reg) (c : Cond) (s : State) :
    exec (k.form m rd c) s = loadSingle k m rd c s := by
  cases k <;> cases m <;> rfl

theorem exec_storeForm (z : Size) (rs : Reg) (m : AddrMode) (c : Cond) (s : State) :
    exec (z.form rs m c) s = storeSingle z rs m c s := by
  cases z <;> cases m <;> rfl

/-- A computation instruction names a special register among its operands (10_state.md R46). -/
theorem compute_refused {regs : List Reg} (c : Cond) (s effect : State) (h : ∃ r ∈ regs, r.isGpr = false) :
    ∃ r ∈ regs, r.isGpr = false ∧ compute regs c s effect = .refused (.forbiddenRegister r) := by
  have hsome : (regs.find? fun r => !r.isGpr).isSome = true := List.find?_isSome.2 (by simpa using h)
  obtain ⟨q, hq⟩ := Option.isSome_iff_exists.1 hsome
  have hg : q.isGpr = false := by simpa using List.find?_some hq
  refine ⟨q, List.mem_of_find?_eq_some hq, hg, ?_⟩
  rw [compute, computeRefusal, hq]
  rfl

theorem conditional_undef (refusal : Option Refusal) (s : State) (effect : Result) :
    ∃ r, conditional .undef refusal s effect = .refused r := by
  cases refusal with
  | none => exact ⟨_, rfl⟩
  | some r => exact ⟨r, rfl⟩

/-- The registers that are not transferred (41_load_store.md R171). -/
theorem canTransfer_eq_false_iff (r : Reg) : r.canTransfer = false ↔ r ∈ [Reg.cc, .cs, .ep, .ia, .id] := by
  cases r <;> simp [Reg.canTransfer]

/-- The registers that are neither index nor update register (41_load_store.md R171). -/
theorem canIndex_eq_false_iff (r : Reg) :
    r.canIndex = false ↔ r ∈ [Reg.cc, .cs, .ep, .ta, .sa, .ia, .id] := by
  cases r <;> simp [Reg.canIndex]

theorem accessRefusal_transferred {r : Reg} (m : AddrMode) (h : r.canTransfer = false) :
    accessRefusal r m = some (.forbiddenRegister r) := by
  simp [accessRefusal, h]

theorem accessRefusal_index {r x : Reg} {m : AddrMode} {an : AReg} (hm : m = .index x an ∨ m = .regUpdate an x)
    (hr : r.canTransfer = true) (hx : x.canIndex = false) : accessRefusal r m = some (.forbiddenRegister x) := by
  rcases hm with rfl | rfl <;> simp [accessRefusal, AddrMode.indexRegs, hr, hx]

/-- What an access refuses of its operands, loads and stores refuse before anything else. -/
theorem exec_access_refused {r : Reg} {m : AddrMode} {f : Refusal} (k : LoadKind) (z : Size) (c : Cond) (s : State)
    (h : accessRefusal r m = some f) :
    exec (k.form m r c) s = .refused f ∧ exec (z.form r m c) s = .refused f := by
  have hl : loadRefusal r m = some f := by simp [loadRefusal, h]
  rw [exec_loadForm, loadSingle, hl, exec_storeForm, storeSingle, h]
  exact ⟨rfl, rfl⟩

/-- EP where the parameter gives it no behaviour (10_state.md R37). -/
theorem State.epRefusal_of_mem {s : State} {regs : List Reg} (hp : s.params.ep = .refused) (h : Reg.ep ∈ regs) :
    s.epRefusal regs = some .extensionRegister := by
  simp [State.epRefusal, hp, h]

/-- Settles O26: in each group the refusal of the operands is known, and `conditional` looks at it first. -/
theorem refusedOperands : Obligations.RefusedOperands := by
  refine ⟨?_, ?_, ?_, ?_, ?_⟩
  · intro i s regs hi hr
    obtain ⟨c, effect, he⟩ := exec_of_computeOperands s hi
    rw [he]
    exact compute_refused c s effect hr
  · intro k z m r c s hr
    exact exec_access_refused k z c s (accessRefusal_transferred m ((canTransfer_eq_false_iff r).2 hr))
  · intro k z m an x r c s hm hx hr
    rw [← canTransfer_eq_false_iff, Bool.not_eq_false] at hr
    exact exec_access_refused k z c s (accessRefusal_index hm hr ((canIndex_eq_false_iff x).2 hx))
  · intro i s hi
    obtain ⟨refusal, effect, he⟩ := exec_of_condOf s hi
    rw [he]
    exact conditional_undef refusal s effect
  · intro s r k c hp
    have named (regs : List Reg) (h : Reg.ep ∈ regs) := State.epRefusal_of_mem hp h
    simp [execMoveDual, execMoveK17m, execMfdp, execMtdp, named, conditional_refused]

/-! ### The read view -/

theorem toNat_append_sum {m n : Nat} (x : BitVec m) (y : BitVec n) : (x ++ y).toNat = x.toNat * 2 ^ n + y.toNat := by
  rw [BitVec.toNat_append, ← Nat.shiftLeft_add_eq_or_of_lt y.isLt, Nat.shiftLeft_eq]

theorem linkWord_toNat (a : BitVec 30) : (linkWord a).toNat = 4 * a.toNat := by
  rw [linkWord, toNat_append_sum]
  simp [Nat.mul_comm]

theorem Flags.bits_toNat (f : Flags) :
    f.bits.toNat = 8 * f.n.toNat + 4 * f.z.toNat + 2 * f.o.toNat + f.c.toNat := by
  simp only [Flags.bits, toNat_append_sum, BitVec.toNat_ofBool]
  omega

theorem ControlStatus.word_toNat (c : ControlStatus) :
    c.word.toNat = 64 * c.ivtp.toNat + 4 * c.is.toNat + 2 * c.ie.toNat + c.ir.toNat := by
  simp only [ControlStatus.word, toNat_append_sum, BitVec.toNat_ofBool, BitVec.toNat_ofNat]
  omega

theorem State.idWord_toNat (s : State) :
    s.idWord.toNat = 4096 * s.params.idRev.toNat + 256 * s.params.idIma.code.toNat + 0x14 := by
  simp only [State.idWord, toNat_append_sum, BitVec.toNat_ofNat]
  omega

/-- Settles O31: each register is read as the concatenation of its fields, which is their sum at their weights. -/
theorem readView : Obligations.ReadView := by
  intro s
  refine ⟨?_, s.cs.word_toNat, linkWord_toNat s.ta, linkWord_toNat s.sa, linkWord_toNat s.ia, s.idWord_toNat, ?_⟩
  · rw [State.readReg, BitVec.toNat_setWidth_of_le (by omega), Flags.bits_toNat]
  · cases s.params.idIma <;> decide

end Sys2Proof.Machine

/-! SUPPORT for the statements about data memory (20_memory.md): which address an access reaches and why it stops, what
its bytes make of a word, and which instructions change a memory. -/

namespace Sys2Proof.Machine

/-! ### Alignment -/

/-- A word without bits under a mask is what the mask's complement leaves of it. -/
theorem and_not_eq_self {a m : Word} (h : a &&& m = 0#32) : a &&& ~~~m = a :=
  calc a &&& ~~~m = (a &&& m) ||| (a &&& ~~~m) := by rw [h, BitVec.zero_or]
    _ = a := by rw [← BitVec.and_or_distrib_left, BitVec.or_not_self, BitVec.and_allOnes]

theorem Size.align_short_of_aligned {a : Word} (h : a &&& 1#32 = 0#32) : Size.short.align a = a := and_not_eq_self h

theorem Size.align_long_of_aligned {a : Word} (h : a &&& 3#32 = 0#32) : Size.long.align a = a := and_not_eq_self h

@[simp] theorem Size.align_align (z : Size) (e : Word) : z.align (z.align e) = z.align e := by
  cases z with
  | byte => rfl
  | short => simp [Size.align, BitVec.and_assoc]
  | long => simp [Size.align, BitVec.and_assoc]

@[simp] theorem Size.addresses_align (z : Size) (e : Word) : z.addresses (z.align e) = z.addresses e := by
  simp [Size.addresses]

theorem State.memRead_align (s : State) (e : Word) (z : Size) : s.memRead (z.align e) z = s.memRead e z := by
  simp [State.memRead]

theorem State.memWrite_align (s : State) (e : Word) (z : Size) (v : Word) :
    s.memWrite (z.align e) z v = s.memWrite e z v := by
  simp [State.memWrite]

/-! ### The value of an access -/

theorem wordOfBytes_toNat (b0 b1 b2 b3 : Byte) :
    (wordOfBytes b0 b1 b2 b3).toNat = b0.toNat + 256 * b1.toNat + 65536 * b2.toNat + 16777216 * b3.toNat := by
  simp only [wordOfBytes, toNat_append_sum]
  omega

/-- Settles O32: an aligned access starts at its own address, and its value is a concatenation of bytes, which is their
sum at the weights of their places. -/
theorem littleEndian : Obligations.LittleEndian := by
  intro s a
  refine ⟨?_, fun h => ?_, fun h => ?_⟩
  · exact BitVec.toNat_setWidth_of_le (by decide)
  · simp only [State.memRead, Size.align_short_of_aligned h]
    rw [BitVec.toNat_setWidth_of_le (by decide), toNat_append_sum]
    exact (Nat.add_comm _ _).trans (congrArg _ (Nat.mul_comm _ _))
  · simp only [State.memRead, Size.align_long_of_aligned h]
    exact wordOfBytes_toNat _ _ _ _

/-! ### Reading after writing -/

/-- The low byte of a word, extended. -/
theorem byteOfWord_setWidth (v : Word) : (byteOfWord v 0).setWidth 32 = Size.byte.lowBytes v := by
  apply BitVec.eq_of_getLsbD_eq; intro i hi
  simp only [byteOfWord, Size.lowBytes, BitVec.getLsbD_setWidth, BitVec.getLsbD_extractLsb', BitVec.getLsbD_and]
  interval_cases i <;> simp

/-- The low two bytes of a word, put together and extended. -/
theorem byteOfWord_append_setWidth (v : Word) :
    (byteOfWord v 1 ++ byteOfWord v 0).setWidth 32 = Size.short.lowBytes v := by
  apply BitVec.eq_of_getLsbD_eq; intro i hi
  simp only [byteOfWord, Size.lowBytes, BitVec.getLsbD_setWidth, BitVec.getLsbD_append, BitVec.getLsbD_extractLsb',
    BitVec.getLsbD_and]
  interval_cases i <;> simp

/-- The four bytes of a word, put together. -/
theorem wordOfBytes_byteOfWord (v : Word) :
    wordOfBytes (byteOfWord v 0) (byteOfWord v 1) (byteOfWord v 2) (byteOfWord v 3) = v := by
  apply BitVec.eq_of_getLsbD_eq; intro i hi
  simp only [wordOfBytes, byteOfWord, BitVec.getLsbD_append, BitVec.getLsbD_extractLsb']
  interval_cases i <;> simp

/-- Where the bytes of an access are those of `v`, a read gives the low bytes of `v`. -/
theorem State.memRead_of_bytes {s : State} {e v : Word} {z : Size}
    (h : ∀ i, i < z.bytes → s.readByte (z.align e + BitVec.ofNat 32 i) = byteOfWord v i) :
    s.memRead e z = z.lowBytes v := by
  have first : s.readByte (z.align e) = byteOfWord v 0 := by
    simpa using h 0 (by cases z <;> decide)
  cases z with
  | byte => rw [← byteOfWord_setWidth, ← first]; rfl
  | short => rw [← byteOfWord_append_setWidth, ← first, ← h 1 (by decide)]; rfl
  | long =>
    calc s.memRead e .long
      _ = wordOfBytes (byteOfWord v 0) (byteOfWord v 1) (byteOfWord v 2) (byteOfWord v 3) := by
        rw [← first, ← h 1 (by decide), ← h 2 (by decide), ← h 3 (by decide)]; rfl
      _ = v := wordOfBytes_byteOfWord v

/-- The bytes of an access to RAM after it has been written. -/
theorem State.readByte_memWrite_self {s : State} {e : Word} {z : Size} (v : Word) (hc : Canonical s)
    (hr : s.AllRam e z) {i : Nat} (hi : i < z.bytes) :
    (s.memWrite e z v).readByte (z.align e + BitVec.ofNat 32 i) = byteOfWord v i := by
  have ram : s.regionAt (z.align e + BitVec.ofNat 32 i) = .ram := hr _ ((Size.mem_addresses z e _).2 ⟨i, hi, rfl⟩)
  rw [State.readByte_memory, s.dataByte_memWrite_self e z v hc.data hc.code i hi ram]
  rw [State.regionAt_congr s _ (by simp), ram]
  decide

/-- A byte outside a write reads as before, whatever stands behind it. -/
theorem State.readByte_memWrite_other (s : State) {e a : Word} {z : Size} (v : Word) (h : a ∉ z.addresses e) :
    (s.memWrite e z v).readByte a = s.readByte a :=
  State.readByte_congr _ _ (by simp) (by simp) a (s.dataByte_memWrite_other e z v a fun _ => h)

/-- Settles O33, byte by byte: a written byte of RAM, a byte outside the write, and a write that no RAM takes. -/
theorem writeThenRead : Obligations.WriteThenRead := by
  intro s eda sz v hc
  refine ⟨fun hr => ?_, fun e z hd => ?_, s.memWrite_outside_ram eda sz v⟩
  · rw [← Size.lowBytes_eq]
    exact State.memRead_of_bytes fun i hi => State.readByte_memWrite_self v hc hr hi
  · exact State.memRead_congr _ _ e z fun a ha => s.readByte_memWrite_other v (hd a ha)

/-! ### Why an access stops -/

theorem State.controllerTakes_of_ignore {s : State} (h : s.params.misaligned = .ignore) (e : Word) (z : Size) :
    s.controllerTakes e z = false := by
  simp [State.controllerTakes, h]

/-- Where `MISALIGNED = ignore` only the bytes of an access can stop it. -/
theorem State.accessStop_of_ignore {s : State} (h : s.params.misaligned = .ignore) (write : Bool) (e : Word)
    (z : Size) : s.accessStop write e z = (z.addresses e).findSome? (s.byteStop write) := by
  simp [State.accessStop, State.controllerTakes_of_ignore h]

theorem State.accessStop_of_controller {s : State} {e : Word} {z : Size} (h : s.params.misaligned = .controller)
    (ha : z.align e ≠ e) (write : Bool) : s.accessStop write e z = some (.refusal (.misalignedAccess e)) := by
  simp [State.accessStop, State.controllerTakes, h, ha]

/-- An access that does not stop has no byte that stops it. -/
theorem State.byteStop_of_accessStop {s : State} {write : Bool} {e : Word} {z : Size}
    (h : s.accessStop write e z = none) : ∀ a ∈ z.addresses e, s.byteStop write a = none := by
  unfold State.accessStop at h
  split at h
  · simp at h
  · exact List.findSome?_eq_none_iff.1 h

/-- What a map puts at an address is plain memory or the kind of one of its regions. -/
theorem regionKind_cases (a : Word) (l : List Config.Region) :
    regionKind a l = .ram ∨ ∃ r ∈ l, regionKind a l = r.kind := by
  induction l with
  | nil => exact .inl rfl
  | cons r l ih =>
    simp only [regionKind]
    split
    · exact .inr ⟨r, List.mem_cons_self, rfl⟩
    · rcases ih with h | ⟨q, hq, h⟩
      · exact .inl h
      · exact .inr ⟨q, List.mem_cons_of_mem _ hq, h⟩

theorem State.codeAddr?_of_no_window {s : State} (h : s.params.codeWindow = none) (a : Word) :
    s.codeAddr? a = none := by
  simp [State.codeAddr?, h]

/-- Without a code window only an absent region stops an access to a byte. -/
theorem State.byteStop_of_no_window {s : State} (hw : s.params.codeWindow = none)
    (hm : ∀ r ∈ s.params.dataMap, r.kind ≠ .absent) (write : Bool) (a : Word) : s.byteStop write a = none := by
  have present : regionKind a s.params.dataMap ≠ .absent := by
    rcases regionKind_cases a s.params.dataMap with h | ⟨r, hr, h⟩
    · simp [h]
    · exact h ▸ hm r hr
  simp [State.byteStop, State.codeAddr?_of_no_window hw, present]

/-- Where instruction memory is RAM and ROM only, no byte of it stops a fetch. -/
theorem State.codeByteStop_of_memory {s : State} (h : ∀ r ∈ s.params.codeMap, r.kind = .ram ∨ r.kind = .rom)
    (a : Word) : s.codeByteStop a = none := by
  have memory : regionKind a s.params.codeMap = .ram ∨ regionKind a s.params.codeMap = .rom := by
    rcases regionKind_cases a s.params.codeMap with hk | ⟨r, hr, hk⟩
    · exact .inl hk
    · exact hk ▸ h r hr
  rcases memory with hk | hk <;> simp [State.codeByteStop, hk]

/-- Settles O34: alignment is idempotent, so an access and its aligned one reach the same bytes; each clause about
stopping is then about the controller or about one byte. -/
theorem accessStops : Obligations.AccessStops := by
  intro s eda sz v write
  refine ⟨⟨(s.memRead_align eda sz).symm, (s.memWrite_align eda sz v).symm⟩, fun hi => ?_, fun hc ha => ?_,
    fun hi hw hm => ?_, fun hm => ?_⟩
  · simp only [State.accessStop_of_ignore hi, Size.addresses_align]
  · exact State.accessStop_of_controller hc ha write
  · rw [State.accessStop_of_ignore hi]
    exact List.findSome?_eq_none_iff.2 fun a _ => State.byteStop_of_no_window hw hm write a
  · exact List.findSome?_eq_none_iff.2 fun a _ => State.codeByteStop_of_memory hm a

/-! ### Which instructions change a memory -/

/-- An instruction leaves both memories alone, or it is a store that no access of its own has stopped (20_memory.md
R61). -/
theorem exec_memories {i : Instr} {s t : State} (h : exec i s = .next t) :
    (t.dmem = s.dmem ∧ t.imem = s.imem) ∨
      (∃ z m rs c, i = Size.form z rs m c ∧ s.accessStop true (m.eda z s) z = none ∧ t = (s.stored z rs m).advance) ∨
      (∃ z d sel an, i = Size.rgsForm z d sel an ∧ s.transferStop true z (d.transfers z an sel s) = none ∧
        t = (s.storedSelection z d sel an).advance) := by
  cases exec_shape h with
  | stored z m rs c hi hs => exact .inr (.inl ⟨z, m, rs, c, hi, hs, rfl⟩)
  | storedSelection z d an sel hi hs => exact .inr (.inr ⟨z, d, sel, an, hi, hs, rfl⟩)
  | trapped _ _ h =>
    obtain ⟨-, -, -, rfl⟩ := securityException_next h
    exact .inl ⟨by simp, by simp⟩
  | loaded k m rd =>
    obtain ⟨-, hd, hi, -⟩ := s.loaded_frame k rd m
    exact .inl ⟨hd, hi⟩
  | loadedSelection k d an sel =>
    obtain ⟨-, hd, hi, -⟩ := s.loadedSelection_frame k d an sel
    exact .inl ⟨hd, hi⟩
  | _ => exact .inl ⟨by simp, by simp⟩

/-- Settles O60: of the two ways an instruction can treat the memories the hypotheses leave the one that keeps them. -/
theorem onlyStoresWrite : Obligations.OnlyStoresWrite := by
  intro i s t h hsingle hrgs
  rcases exec_memories h with ⟨hd, hi⟩ | ⟨z, m, rs, c, hi, -⟩ | ⟨z, d, sel, an, hi, -⟩
  · exact .of_eq s t hd hi (exec_keepsFixed h).params
  · exact absurd hi (hsingle z m rs c)
  · exact absurd hi (hrgs z d sel an)

/-! ### Instruction memory -/

/-- A running program's store that does not stop has no byte in the code window (20_memory.md R78). -/
theorem State.codeAddr?_of_store {s : State} {e : Word} {z : Size} (hs : s.stopped = false)
    (h : s.accessStop true e z = none) : ∀ a ∈ z.addresses e, s.codeAddr? a = none := by
  intro a ha
  have stop := State.byteStop_of_accessStop h a ha
  cases hc : s.codeAddr? a with
  | none => rfl
  | some c => simp [State.byteStop, hc, hs] at stop

theorem State.stored_imem {s : State} {z : Size} {m : AddrMode} (rs : Reg) (hs : s.stopped = false)
    (h : s.accessStop true (m.eda z s) z = none) (c : Word) : (s.stored z rs m).imem.read c = s.imem.read c := by
  have outside := State.codeAddr?_of_store hs h
  have written := s.imem_memWrite_other (m.eda z s) z (s.readReg rs) c fun a ha hc => by simp [outside a ha] at hc
  simpa [State.stored, State.memWrite_signal] using written

theorem State.storedSelection_imem {s : State} {z : Size} {d : RgsMode} {sel : RegSel} {an : AReg}
    (hs : s.stopped = false) (h : s.transferStop true z (d.transfers z an sel s) = none) (c : Word) :
    (s.storedSelection z d sel an).imem.read c = s.imem.read c := by
  refine (State.storeElements_other s z (d.transfers z an sel s) s).code c fun e he a ha hc => ?_
  obtain ⟨p, hp, rfl⟩ := List.mem_map.1 he
  have stop : s.accessStop true p.2 z = none := List.findSome?_eq_none_iff.1 h p hp
  simp [State.codeAddr?_of_store hs stop a ha] at hc

/-- No instruction of a running program changes instruction memory (the spec's decision D12). -/
theorem exec_imem {i : Instr} {s t : State} (hs : s.stopped = false) (h : exec i s = .next t) (c : Word) :
    t.imem.read c = s.imem.read c := by
  rcases exec_memories h with ⟨-, hi⟩ | ⟨z, m, rs, k, -, hstop, rfl⟩ | ⟨z, d, sel, an, -, hstop, rfl⟩
  · rw [hi]
  · exact State.stored_imem rs hs hstop c
  · exact State.storedSelection_imem hs hstop c

theorem stoppedStep_params {inp : Inputs} {s t : State} (h : stoppedStep inp s = .next t) : t.params = s.params := by
  rcases stoppedStep_next h with ⟨w, i, -, -, h⟩ | ⟨-, -, -, rfl⟩ | ⟨-, -, rfl⟩
  · exact (exec_keepsFixed h).params.trans (pokeAll_params s inp.pokes)
  · exact pokeAll_params s inp.pokes
  · exact pokeAll_params s inp.pokes

/-- Settles O59, by the order of events in a step: only the fetched instruction could write instruction memory, and the
direct writes of the debug module need a stopped core. -/
theorem codeAndPartFixed : Obligations.CodeAndPartFixed := by
  intro s t h
  rcases step_next h with ⟨-, rfl⟩ | ⟨-, hh, h⟩ | ⟨-, -, -, rfl⟩ | ⟨-, -, -, -, -, -, h⟩ | ⟨-, -, -, h⟩
  · exact ⟨rfl, fun _ _ => rfl⟩
  · exact ⟨stoppedStep_params (s := s.begin) h, fun hs => by simp [hh] at hs⟩
  · exact ⟨rfl, fun _ _ => rfl⟩
  · obtain ⟨-, rfl⟩ := externalInterrupt_next h
    exact ⟨by simp, fun _ a => by simp⟩
  · obtain ⟨-, i, -, h⟩ := fetchRun_next h
    exact ⟨(exec_keepsFixed h).params, fun hs => exec_imem (s := s.begin.fetched) hs h⟩

end Sys2Proof.Machine

/-! SUPPORT for the statements about the encoding (30_encoding.md): why no word is of two rows of the opcode table, and
what becomes of a word of no row. -/

namespace Sys2Proof

/-! ### Disjoint rows -/

/-- Two rows disagree on a bit that both fix. -/
abbrev Row.Separated (r r' : Row) : Prop := r.pattern &&& r'.mask ≠ r'.pattern &&& r.mask

/-- A word of both rows would have the common fixed bits of both patterns. -/
theorem Row.Separated.not_accepts {r r' : Row} (h : r.Separated r') (w : Word) :
    ¬ (r.accepts w = true ∧ r'.accepts w = true) := by
  rintro ⟨hr, hr'⟩
  have hp : w &&& r.mask = r.pattern := beq_iff_eq.1 hr
  have hp' : w &&& r'.mask = r'.pattern := beq_iff_eq.1 hr'
  exact h (by rw [← hp, ← hp', BitVec.and_assoc, BitVec.and_assoc, BitVec.and_comm r.mask])

/-- A row fixes all of the bits `bits`. -/
abbrev Row.Fixes (bits : Word) (r : Row) : Prop := r.mask &&& bits = bits

theorem Row.separated_of_fixes {r r' : Row} {bits : Word} (h : r.Fixes bits) (h' : r'.Fixes bits)
    (hne : r.pattern &&& bits ≠ r'.pattern &&& bits) : r.Separated r' := by
  intro heq
  apply hne
  calc r.pattern &&& bits = (r.pattern &&& r'.mask) &&& bits := by rw [BitVec.and_assoc, h']
    _ = (r'.pattern &&& r.mask) &&& bits := by rw [heq]
    _ = r'.pattern &&& bits := by rw [BitVec.and_assoc, h]

/-- Two lists of rows that fix the same bits, with values below `v` in the first and from `v` on in the second. -/
theorem separated_append {l l' : List Row} (bits v : Word) (hl : l.Pairwise Row.Separated)
    (hl' : l'.Pairwise Row.Separated) (below : ∀ r ∈ l, r.Fixes bits ∧ r.pattern &&& bits < v)
    (above : ∀ r ∈ l', r.Fixes bits ∧ v ≤ r.pattern &&& bits) : (l ++ l').Pairwise Row.Separated := by
  refine List.pairwise_append.2 ⟨hl, hl', fun r hr r' hr' => ?_⟩
  obtain ⟨hf, hlt⟩ := below r hr
  obtain ⟨hf', hle⟩ := above r' hr'
  exact Row.separated_of_fixes hf hf' fun heq => BitVec.not_lt.2 hle (heq ▸ hlt)

/-- Bits [2:0] tell the register forms (0) from the constant forms (1 to 3). -/
theorem computation_separated : (computeRows ++ constantRows).Pairwise Row.Separated :=
  separated_append 7 1 (by decide) (by decide) (by decide) (by decide)

/-- Bits [5:3] tell the loads (0 to 4) from the stores (5 to 7). -/
theorem memory_separated : (loadRows ++ storeRows).Pairwise Row.Separated :=
  separated_append 0x38 0x28 (by decide) (by decide) (by decide) (by decide)

/-- Bits [2:0] tell the computation (0 to 3) from the loads and stores (4 and 5) and these from the flow control (6). -/
theorem opcodeTable_separated : opcodeTable.Pairwise Row.Separated := by
  have table : opcodeTable = (computeRows ++ constantRows) ++ (loadRows ++ storeRows) ++ flowRows := by
    simp [opcodeTable]
  rw [table]
  exact separated_append 7 6 (separated_append 7 4 computation_separated memory_separated (by decide) (by decide))
    (by decide) (by decide) (by decide)

/-- Settles O3: any two rows of the table disagree on a bit that both fix. -/
theorem rowsDisjoint : Obligations.RowsDisjoint :=
  ⟨rfl, opcodeTable_separated.imp Row.Separated.not_accepts⟩

/-! ### Words of no row -/

theorem decode_of_no_row {w : Word} (h : ∀ r ∈ opcodeTable, r.accepts w = false) :
    decode w = .error (.unassigned w) := by
  have none_accepts : opcodeTable.find? (·.accepts w) = none := List.find?_eq_none.2 fun r hr => by simp [h r hr]
  simp [decode, none_accepts]

namespace Machine

/-- A word that does not decode is refused by name. -/
theorem runWord_error {w : Word} {e : DecodeError} (s : State) (h : decode w = .error e) :
    runWord w s = .refused (.unassigned w) := by
  simp [runWord, h]

/-- An undisturbed step is the fetch. -/
theorem step_undisturbed {s : State} (h : Undisturbed s) : step s = fetchRun s.nextInputs.breakpoint s.begin := by
  obtain ⟨running, noReset, noStop, noIrq⟩ := h
  simp [step, cycle, cycleWith, State.acknowledges, running, noReset, noStop, noIrq]

/-- A fetch that does not stop runs the fetched word, or the stop opcode that the debug module's comparators put in its
place (60_exceptions.md R347). -/
theorem fetchRun_of_no_stop {s : State} (b : Bool) (h : s.fetchStop (wordAligned s.pc) = none) :
    fetchRun b s = runWord (if b then stopWord else s.codeWord (wordAligned s.pc)) s.fetched := by
  simp [fetchRun, h, unlessStopped]

/-- Settles O5: the step is the fetch, and the fetched word does not decode. -/
theorem unassignedRefused : Obligations.UnassignedRefused := by
  intro s undisturbed noBreakpoint noStop noRow
  calc step s = fetchRun false s.begin := by rw [step_undisturbed undisturbed, noBreakpoint]
    _ = runWord (s.codeWord (wordAligned s.pc)) s.begin.fetched := fetchRun_of_no_stop (s := s.begin) false noStop
    _ = .refused (.unassigned (s.codeWord (wordAligned s.pc))) := runWord_error _ (decode_of_no_row noRow)

end Machine

end Sys2Proof

/-! SUPPORT for the statements about loads and stores (41_load_store.md): which operands the forms accept, what one
element of a load or a store does, and where the elements of an RGS instruction lie. A single-register load or store is
one element followed by the update of An. -/

namespace Sys2Proof.Machine

/-! ### The operands that the forms accept -/

theorem accessRefusal_eq_none_iff {r : Reg} {m : AddrMode} :
    accessRefusal r m = none ↔ r.canTransfer = true ∧ ∀ x ∈ m.indexRegs, x.canIndex = true := by
  by_cases h : r.canTransfer = true <;> simp [accessRefusal, h]

theorem loadRefusal_eq_none_iff {r : Reg} {m : AddrMode} :
    loadRefusal r m = none ↔ accessRefusal r m = none ∧ r ∉ m.updateRegs := by
  cases h : accessRefusal r m <;> simp [loadRefusal, h]

theorem LoadKind.form_wellFormed_iff {k : LoadKind} {m : AddrMode} {rd : Reg} {c : Cond} :
    (k.form m rd c).wellFormed = true ↔ loadRefusal rd m = none ∧ c.defined = true := by
  have operands : (k.form m rd c).wellFormed =
      (WellFormed.access rd m.indexRegs c && WellFormed.apart rd m.updateRegs) := by
    cases k <;> cases m <;> simp [LoadKind.form, Instr.wellFormed, AddrMode.indexRegs, AddrMode.updateRegs,
      WellFormed.apart]
  rw [operands, loadRefusal_eq_none_iff, accessRefusal_eq_none_iff]
  simp only [WellFormed.access, WellFormed.apart, Bool.and_eq_true, List.all_eq_true, Bool.not_eq_true',
    List.contains_eq_mem, decide_eq_false_iff_not]
  tauto

theorem Size.form_wellFormed_iff {z : Size} {m : AddrMode} {rs : Reg} {c : Cond} :
    (z.form rs m c).wellFormed = true ↔ accessRefusal rs m = none ∧ c.defined = true := by
  have operands : (z.form rs m c).wellFormed = WellFormed.access rs m.indexRegs c := by cases z <;> cases m <;> rfl
  rw [operands, accessRefusal_eq_none_iff]
  simp only [WellFormed.access, Bool.and_eq_true, List.all_eq_true]

theorem selectionRefusal_eq_none_iff {sel : RegSel} : selectionRefusal sel = none ↔ sel ≠ 0 := by
  simp [selectionRefusal]

theorem loadSelectionRefusal_eq_none_iff {an : AReg} {sel : RegSel} :
    loadSelectionRefusal an sel = none ↔ sel ≠ 0 ∧ sel.holds an.reg = false := by
  by_cases h : sel = 0
  · simp [loadSelectionRefusal, selectionRefusal, h]
  · have selects : sel ≠ 0#19 := h
    rw [loadSelectionRefusal, selectionRefusal_eq_none_iff.2 h]
    simp [selects]

theorem LoadKind.rgsForm_wellFormed_iff {k : LoadKind} {d : RgsMode} {an : AReg} {sel : RegSel} :
    (k.rgsForm d an sel).wellFormed = true ↔ loadSelectionRefusal an sel = none := by
  have operands : (k.rgsForm d an sel).wellFormed = (WellFormed.selection sel && !sel.holds an.reg) := by
    cases k <;> cases d <;> rfl
  rw [operands, loadSelectionRefusal_eq_none_iff]
  simp [WellFormed.selection]

theorem Size.rgsForm_wellFormed_iff {z : Size} {d : RgsMode} {sel : RegSel} {an : AReg} :
    (z.rgsForm d sel an).wellFormed = true ↔ selectionRefusal sel = none := by
  have operands : (z.rgsForm d sel an).wellFormed = WellFormed.selection sel := by cases z <;> cases d <;> rfl
  rw [operands, selectionRefusal_eq_none_iff]
  simp [WellFormed.selection]

/-! ### What the forms run -/

theorem exec_rgsLoadForm (k : LoadKind) (d : RgsMode) (an : AReg) (sel : RegSel) (s : State) :
    exec (k.rgsForm d an sel) s = loadSelection k d an sel s := by
  cases k <;> cases d <;> rfl

theorem exec_rgsStoreForm (z : Size) (d : RgsMode) (sel : RegSel) (an : AReg) (s : State) :
    exec (z.rgsForm d sel an) s = storeSelection z d sel an s := by
  cases z <;> cases d <;> rfl

/-- An instruction that accepts its operands does what it does under a true condition, and nothing under a false one. -/
theorem UnderCondition.of_conditional {c : Cond} {s : State} {i : Instr} {run : Result} {effect : Prop}
    (hi : exec i s = conditional c none s run) (h : exec i s = run → effect) : UnderCondition c s i effect :=
  ⟨fun hc => h (hi.trans (conditional_holds hc)), fun hd hc => hi.trans (conditional_fails hd hc)⟩

/-! ### Refused loads -/

theorem canIndex_of_isGpr_or_lc {r : Reg} (h : r.isGpr = true ∨ r = .lc) : r.canIndex = true := by
  cases r <;> simp_all [Reg.isGpr, Reg.canIndex]

theorem canTransfer_of_canIndex {r : Reg} (h : r.canIndex = true) : r.canTransfer = true := by
  cases r <;> simp_all [Reg.canIndex, Reg.canTransfer]

/-- A load whose registers are allowed one by one is refused where its update uses its destination
(41_load_store.md R172). -/
theorem exec_load_overlap {rd : Reg} {m : AddrMode} (k : LoadKind) (c : Cond) (s : State)
    (ha : accessRefusal rd m = none) (h : rd ∈ m.updateRegs) :
    exec (k.form m rd c) s = .refused (.loadOverlap rd) := by
  have refusal : loadRefusal rd m = some (.loadOverlap rd) := by simp [loadRefusal, ha, h]
  rw [exec_loadForm, loadSingle, refusal, conditional_refused]

theorem exec_rgsLoad_refused {an : AReg} {sel : RegSel} {f : Refusal} (k : LoadKind) (d : RgsMode) (s : State)
    (h : loadSelectionRefusal an sel = some f) : exec (k.rgsForm d an sel) s = .refused f := by
  rw [exec_rgsLoadForm, loadSelection, h, conditional_refused]

theorem loadSelectionRefusal_overlap {an : AReg} {sel : RegSel} (h : sel.holds an.reg = true) :
    loadSelectionRefusal an sel = some (.loadOverlap an.reg) := by
  have selects : sel ≠ 0 := by
    rintro rfl
    simp only [RegSel.holds] at h
    split at h <;> simp at h
  rw [loadSelectionRefusal, selectionRefusal_eq_none_iff.2 selects]
  simp [h]

/-- Settles O41: in each case the refusal of the operands is known, and it comes before the condition. -/
theorem refusedLoads : Obligations.RefusedLoads := by
  intro k z d an au ru sel c s
  refine ⟨?_, fun hru => ⟨?_, ?_⟩, fun h => ?_, ?_, ?_⟩
  · exact exec_load_overlap k c s (accessRefusal_eq_none_iff.2 ⟨rfl, by simp [AddrMode.indexRegs]⟩)
      (by simp [AddrMode.updateRegs])
  · exact exec_load_overlap k c s
      (accessRefusal_eq_none_iff.2 ⟨rfl, by simpa [AddrMode.indexRegs] using canIndex_of_isGpr_or_lc hru⟩)
      (by simp [AddrMode.updateRegs])
  · have index := canIndex_of_isGpr_or_lc hru
    exact exec_load_overlap k c s
      (accessRefusal_eq_none_iff.2 ⟨canTransfer_of_canIndex index, by simpa [AddrMode.indexRegs] using index⟩)
      (by simp [AddrMode.updateRegs])
  · exact exec_rgsLoad_refused k d s (loadSelectionRefusal_overlap h)
  · exact exec_rgsLoad_refused k d s rfl
  · rw [exec_rgsStoreForm]; rfl

/-! ### The value of a load -/

theorem extractLsb'_setWidth_self {m n : Nat} (x : BitVec m) (h : m ≤ n) : (x.setWidth n).extractLsb' 0 m = x :=
  (BitVec.extractLsb'_setWidth_of_le (by omega)).trans BitVec.extractLsb'_eq_self

/-- What a load gives its destination, as the extended bytes (41_load_store.md R175 to R179). -/
theorem LoadKind.fetched_eq (k : LoadKind) (s : State) (e : Word) : k.fetched s e = s.loadValue k e := by
  cases k with
  | bs => exact congrArg (·.signExtend 32) (extractLsb'_setWidth_self _ (show 8 ≤ 32 by decide)).symm
  | ss => exact congrArg (·.signExtend 32) (extractLsb'_setWidth_self _ (show 16 ≤ 32 by decide)).symm
  | _ => rfl

/-- The old content shows only through registers that no load or store transfers. -/
theorem writeView_of_canTransfer {r : Reg} (h : r.canTransfer = true) (old old' v : Word) :
    writeView r old v = writeView r old' v := by
  cases r <;> simp_all [Reg.canTransfer, writeView]

/-! ### The update of An -/

theorem State.readReg_writeReg_an (s : State) (an : AReg) (v : Word) : (s.writeReg an.reg v).readReg an.reg = v :=
  State.readReg_writeReg_self s an.reg v

theorem State.readReg_applyUpdate_updated {m : AddrMode} {src : State} {r : Reg} {v : Word} (s : State)
    (h : m.updated src = some (r, v)) : (s.applyUpdate (m.updated src)).readReg r = v := by
  rw [h]
  cases m <;> cases h <;> exact State.readReg_writeReg_an s _ _

theorem KeepsRegs.applyUpdate (s src : State) (m : AddrMode) :
    KeepsRegs s (s.applyUpdate (m.updated src)) m.updates := by
  cases m with
  | update | regUpdate => exact KeepsRegs.writeReg s _ _
  | _ => exact fun _ _ => rfl

theorem AddrMode.notMem_updates_of_loadRefusal {rd : Reg} {m : AddrMode} (h : loadRefusal rd m = none) :
    rd ∉ m.updates := by
  have apart := (loadRefusal_eq_none_iff.1 h).2
  cases m <;> simp_all [AddrMode.updates, AddrMode.updateRegs]

/-! ### After the instruction -/

theorem KeepsRest.advance {s t : State} (h : KeepsRest s t) : KeepsRest s t.advance :=
  ⟨h.hcc, h.hccSaved, h.stopped, h.strqSeen, h.lia, h.dbo, h.iack, h.inputs, h.dbi, h.draws, h.params⟩

theorem State.advance_pc_eq_follow {s t : State} (hs : t.stopped = s.stopped) (hp : t.pc = s.pc) :
    t.advance.pc = s.follow := by
  rw [advance_pc, hs, hp, State.follow]

theorem HoldsAt.of_memory_eq {t u : State} {e v : Word} {z : Size} (h : HoldsAt t e z v) (hd : u.dmem = t.dmem)
    (hi : u.imem = t.imem) (hp : u.params = t.params) : HoldsAt u e z v := by
  intro i hlt hr
  rw [State.regionAt_congr t u hp] at hr
  rw [State.dataByte_congr t u hd hi hp, h i hlt hr]

theorem KeepsMemoryBut.of_memory_eq {s t u : State} {z : Size} {es : List Word} (h : KeepsMemoryBut s t z es)
    (hd : u.dmem = t.dmem) (hi : u.imem = t.imem) (hp : u.params = t.params) : KeepsMemoryBut s u z es :=
  ⟨fun a ha => (State.dataByte_congr t u hd hi hp a).trans (h.data a ha), fun c hc => by rw [hi, h.code c hc]⟩

/-! ### Single-register loads -/

/-- A single-register load is one element, then the update of An. -/
theorem State.loaded_eq_loadElement (s : State) (k : LoadKind) (rd : Reg) (m : AddrMode) :
    s.loaded k rd m = (State.loadElement k s (rd, m.eda k.size s)).applyUpdate (m.updated s) := rfl

theorem State.readReg_loadElement_self (k : LoadKind) (s : State) (p : Reg × Word) :
    (State.loadElement k s p).readReg p.1 = writeView p.1 (s.readReg p.1) (s.loadValue k p.2) := by
  rw [State.loadElement, State.readReg_writeReg_self, readReg_afterRead, readReg_signal]

theorem State.loadElement_keepsRegs (k : LoadKind) (s : State) (p : Reg × Word) :
    KeepsRegs s (State.loadElement k s p) [p.1] := fun r hr =>
  State.readReg_loadElement_other k s p r (by simpa using hr)

/-- The update of An spares a destination that is not refused. -/
theorem State.readReg_loaded_dest {rd : Reg} {m : AddrMode} (s : State) (k : LoadKind) (h : loadRefusal rd m = none) :
    (s.loaded k rd m).readReg rd = writeView rd (s.readReg rd) (s.loadValue k (m.eda k.size s)) := by
  rw [State.loaded_eq_loadElement, KeepsRegs.applyUpdate _ s m rd (AddrMode.notMem_updates_of_loadRefusal h)]
  exact State.readReg_loadElement_self k s (rd, m.eda k.size s)

theorem State.loaded_keepsRegs (s : State) (k : LoadKind) (rd : Reg) (m : AddrMode) :
    KeepsRegs s (s.loaded k rd m) (rd :: m.updates) :=
  (State.loadElement_keepsRegs k s (rd, m.eda k.size s)).trans (.applyUpdate _ s m)

theorem State.loaded_draws {s : State} {k : LoadKind} {m : AddrMode} (rd : Reg)
    (h : s.NoDevice (m.eda k.size s) k.size) :
    (s.loaded k rd m).draws = s.draws := by
  rw [State.loaded_eq_loadElement, applyUpdate_draws]
  exact State.loadElements_draws k [(rd, m.eda k.size s)] s (by simpa using h)

/-- Settles O36: the element sets Rd, the update sets An, and neither does more. -/
theorem singleLoads : Obligations.SingleLoads := by
  intro k m rd c s hw hstop
  have legal := (LoadKind.form_wellFormed_iff.1 hw).1
  obtain ⟨rest, hd, hi, hp⟩ := s.loaded_frame k rd m
  refine .of_conditional (by rw [exec_loadForm, loadSingle, legal, hstop, unlessStopped]) fun he =>
    ⟨(s.loaded k rd m).advance, he, ?_, fun r v hu => ?_, fun r hr => ?_, .of_eq s _ hd hi rest.params, rest.advance,
      State.loaded_draws rd, ?_, State.advance_pc_eq_follow rest.stopped hp⟩
  · rw [readReg_advance, LoadKind.fetched_eq, State.readReg_loaded_dest s k legal]
  · rw [readReg_advance]
    exact State.readReg_applyUpdate_updated _ hu
  · rw [readReg_advance, s.loaded_keepsRegs k rd m r hr]
  · simp [State.loaded, State.reads, State.dataAccess]

/-! ### Single-register stores -/

/-- A single-register store is a loop of one element, then the update of An. -/
theorem State.stored_eq_foldl (s : State) (z : Size) (rs : Reg) (m : AddrMode) :
    s.stored z rs m = ([(rs, m.eda z s)].foldl (State.storeElement s z) s).applyUpdate (m.updated s) := rfl

theorem State.stored_holdsAt {s : State} (z : Size) (rs : Reg) (m : AddrMode) (h : Canonical s) :
    HoldsAt (s.stored z rs m) (m.eda z s) z (s.readReg rs) := by
  rw [State.stored_eq_foldl]
  exact (State.storeElements_get s z [(rs, m.eda z s)] s h (List.pairwise_singleton _ _) _
    List.mem_cons_self).of_memory_eq (applyUpdate_dmem _ _) (applyUpdate_imem _ _) (applyUpdate_params _ _)

theorem State.stored_keepsMemoryBut (s : State) (z : Size) (rs : Reg) (m : AddrMode) :
    KeepsMemoryBut s (s.stored z rs m) z [m.eda z s] := by
  rw [State.stored_eq_foldl]
  exact (State.storeElements_other s z [(rs, m.eda z s)] s).of_memory_eq (applyUpdate_dmem _ _) (applyUpdate_imem _ _)
    (applyUpdate_params _ _)

theorem State.stored_keepsRegs (s : State) (z : Size) (rs : Reg) (m : AddrMode) :
    KeepsRegs s (s.stored z rs m) m.updates := by
  obtain ⟨-, regs, -, -⟩ := State.storeElements_frame s z [(rs, m.eda z s)] s
  intro r hr
  rw [State.stored_eq_foldl, KeepsRegs.applyUpdate _ s m r hr, regs]

theorem State.stored_bus (s : State) (z : Size) (rs : Reg) (m : AddrMode) :
    (s.stored z rs m).bus = s.bus ++ s.writes z [(m.eda z s, s.readReg rs)] := by
  rw [State.stored_eq_foldl, applyUpdate_bus, State.storeElements_bus]
  rfl

/-- Settles O37: the element writes memory, the update sets An, and neither does more. -/
theorem singleStores : Obligations.SingleStores := by
  intro z m rs c s canonical hw hstop
  have legal := (Size.form_wellFormed_iff.1 hw).1
  obtain ⟨rest, hp⟩ := s.stored_frame z rs m
  refine .of_conditional (by rw [exec_storeForm, storeSingle, legal, hstop, unlessStopped]) fun he =>
    ⟨(s.stored z rs m).advance, he, (State.stored_holdsAt z rs m canonical).of_memory_eq rfl rfl rfl,
      (s.stored_keepsMemoryBut z rs m).of_memory_eq rfl rfl rfl, fun r v hu => ?_, fun r hr => ?_, rest.advance,
      s.stored_bus z rs m, State.advance_pc_eq_follow rest.stopped hp⟩
  · rw [readReg_advance]
    exact State.readReg_applyUpdate_updated _ hu
  · rw [readReg_advance, s.stored_keepsRegs z rs m r hr]

/-! ### RGS loads -/

theorem exec_rgsLoad {k : LoadKind} {d : RgsMode} {an : AReg} {sel : RegSel} {s : State}
    (hw : loadSelectionRefusal an sel = none)
    (hs : ∀ i, i < (d.order sel).length → s.accessStop false (d.eda k.size (s.readReg an.reg) i) k.size = none) :
    exec (k.rgsForm d an sel) s = .next (s.loadedSelection k d an sel).advance := by
  rw [exec_rgsLoadForm, loadSelection, hw, conditional_holds (condHolds_alw _),
    (s.transferStop_eq_none false k.size d an sel).2 hs, unlessStopped]

/-- The write of the final An after the loop leaves every other register as the loop left it. -/
theorem State.loadedSelection_keepsLoop (s : State) (k : LoadKind) (d : RgsMode) (an : AReg) (sel : RegSel) :
    KeepsRegs ((d.transfers k.size an sel s).foldl (State.loadElement k) s) (s.loadedSelection k d an sel) [an.reg] :=
  .writeReg _ _ _

theorem State.readReg_loadedSelection_selected {d : RgsMode} {an : AReg} {sel : RegSel} (s : State) (k : LoadKind)
    (h : an.reg ∉ d.order sel) (i : Nat) (hi : i < (d.order sel).length) :
    ∃ count, (s.loadedSelection k d an sel).readReg (d.order sel)[i] =
      writeView (d.order sel)[i] 0
        (({ s with draws := count } : State).loadValue k (d.eda k.size (s.readReg an.reg) i)) := by
  have member : (d.order sel)[i] ∈ d.order sel := List.getElem_mem _
  have notAn : (d.order sel)[i] ∉ [an.reg] := by simpa using fun e : (d.order sel)[i] = an.reg => h (e ▸ member)
  have once : ((d.transfers k.size an sel s).map Prod.fst).Nodup := by
    rw [d.transfers_fst]; exact d.order_nodup sel
  obtain ⟨count, loaded⟩ := State.loadElements_get k _ s once _ (d.mem_transfers k.size an sel s i hi)
  refine ⟨count, ?_⟩
  rw [s.loadedSelection_keepsLoop k d an sel _ notAn, loaded]
  exact writeView_of_canTransfer (RgsMode.canTransfer_of_mem_order member) _ _ _

theorem State.loadedSelection_keepsRegs (s : State) (k : LoadKind) (d : RgsMode) (an : AReg) (sel : RegSel) :
    KeepsRegs s (s.loadedSelection k d an sel) (an.reg :: d.order sel) := by
  intro r hr
  obtain ⟨notAn, notSelected⟩ := not_or.1 (List.mem_cons.not.1 hr)
  rw [s.loadedSelection_keepsLoop k d an sel r (by simpa using notAn)]
  exact State.loadElements_other k _ s r (by rwa [d.transfers_fst])

theorem State.loadedSelection_draws {s : State} {k : LoadKind} {d : RgsMode} {an : AReg} {sel : RegSel}
    (h : ∀ i, i < (d.order sel).length → s.NoDevice (d.eda k.size (s.readReg an.reg) i) k.size) :
    (s.loadedSelection k d an sel).draws = s.draws := by
  rw [State.loadedSelection, writeReg_draws]
  refine State.loadElements_draws k _ s fun p hp => ?_
  obtain ⟨i, hi, rfl⟩ := (d.mem_transfers_iff k.size an sel s p).1 hp
  exact h i hi

theorem State.loadedSelection_bus (s : State) (k : LoadKind) (d : RgsMode) (an : AReg) (sel : RegSel) :
    (s.loadedSelection k d an sel).bus =
      s.bus ++ s.reads k.size ((List.range (d.order sel).length).map (d.eda k.size (s.readReg an.reg))) := by
  rw [State.loadedSelection, writeReg_bus, State.loadElements_bus, d.transfers_snd]
  rw [d.transfers_fst]
  exact d.cs_notMem_order sel

/-- Settles O38: the loop sets the selected registers, among which An is not, and the last write sets An. -/
theorem selectionLoads : Obligations.SelectionLoads := by
  intro k d an sel s hw n eda hstop
  have legal := LoadKind.rgsForm_wellFormed_iff.1 hw
  have notAn : an.reg ∉ d.order sel := by
    rw [d.mem_order_iff, (loadSelectionRefusal_eq_none_iff.1 legal).2]; decide
  obtain ⟨rest, hd, hi, hp⟩ := s.loadedSelection_frame k d an sel
  refine ⟨(s.loadedSelection k d an sel).advance, exec_rgsLoad legal hstop, fun i hlt => ?_, ?_, fun r hr => ?_,
    .of_eq s _ hd hi rest.params, rest.advance, State.loadedSelection_draws, s.loadedSelection_bus k d an sel,
    State.advance_pc_eq_follow rest.stopped hp⟩
  · simp only [readReg_advance, LoadKind.fetched_eq]
    exact s.readReg_loadedSelection_selected k notAn i hlt
  · rw [readReg_advance]
    exact State.readReg_writeReg_an _ an _
  · rw [readReg_advance, s.loadedSelection_keepsRegs k d an sel r hr]

/-! ### Where the elements of an RGS instruction lie -/

/-- Clearing the bits of a mask takes away what they stand for. -/
theorem toNat_and_not (e m : Word) : (e &&& ~~~m).toNat = e.toNat - (e &&& m).toNat := by
  have apart : (e &&& m) &&& (e &&& ~~~m) = 0#32 := by
    apply BitVec.eq_of_getLsbD_eq; intro i hi
    cases h : m.getLsbD i <;> simp [h]
  have whole : (e &&& m) + (e &&& ~~~m) = e := by
    rw [BitVec.add_eq_or_of_and_eq_zero _ _ apart, ← BitVec.and_or_distrib_left, BitVec.or_not_self,
      BitVec.and_allOnes]
  have rest : e &&& ~~~m = e - (e &&& m) := BitVec.eq_sub_iff_add_eq.2 ((BitVec.add_comm _ _).trans whole)
  rw [rest, BitVec.toNat_sub_of_le]
  exact Nat.and_le_left

/-- The aligned address as a number: the low bits of the access are dropped (20_memory.md R67). -/
theorem Size.toNat_align (z : Size) (e : Word) : (z.align e).toNat = e.toNat - e.toNat % z.bytes := by
  cases z with
  | byte => simp [Size.align, Size.bytes, Nat.mod_one]
  | short => exact (toNat_and_not e 1#32).trans (congrArg _ (Nat.and_two_pow_sub_one_eq_mod e.toNat 1))
  | long => exact (toNat_and_not e 3#32).trans (congrArg _ (Nat.and_two_pow_sub_one_eq_mod e.toNat 2))

/-- An access stays within one aligned block of its size. -/
theorem Size.toNat_div_of_mem_addresses {z : Size} {e x : Word} (h : x ∈ z.addresses e) :
    x.toNat / z.bytes = e.toNat / z.bytes := by
  obtain ⟨k, hk, rfl⟩ := (Size.mem_addresses z e x).1 h
  rw [BitVec.toNat_add, BitVec.toNat_ofNat, Size.toNat_align]
  cases z <;> simp only [Size.bytes] at hk ⊢ <;> omega

theorem RgsMode.toNat_eda (d : RgsMode) (z : Size) (a : Word) {i : Nat} (hi : i < 19) :
    (d.eda z a i).toNat =
      match d with
      | .up => (a.toNat + z.bytes * i) % 2 ^ 32
      | .down => (a.toNat + (2 ^ 32 - z.bytes * (i + 1))) % 2 ^ 32 := by
  cases d <;> cases z <;>
    simp only [RgsMode.eda, Size.word, Size.bytes, BitVec.toNat_add, BitVec.toNat_sub, BitVec.toNat_mul,
      BitVec.toNat_ofNat] <;> omega

/-- The at most 19 elements of an RGS instruction lie in blocks of their own, also across the end of the address
space. -/
theorem RgsMode.toNat_eda_div_ne (d : RgsMode) (z : Size) (a : Word) {i j : Nat} (hij : i < j) (hj : j < 19) :
    (d.eda z a i).toNat / z.bytes ≠ (d.eda z a j).toNat / z.bytes := by
  rw [d.toNat_eda z a (hij.trans hj), d.toNat_eda z a hj]
  cases d <;> cases z <;> simp only [Size.bytes] <;> omega

theorem RgsMode.addresses_eda_disjoint (d : RgsMode) (z : Size) (a : Word) {i j : Nat} (hij : i < j) (hj : j < 19) :
    ∀ x ∈ z.addresses (d.eda z a i), x ∉ z.addresses (d.eda z a j) := fun _ hi hj' =>
  d.toNat_eda_div_ne z a hij hj
    ((Size.toNat_div_of_mem_addresses hi).symm.trans (Size.toNat_div_of_mem_addresses hj'))

theorem RgsMode.transfers_disjoint (d : RgsMode) (z : Size) (an : AReg) (sel : RegSel) (s : State) :
    (d.transfers z an sel s).Pairwise fun p q => ∀ a ∈ z.addresses p.2, a ∉ z.addresses q.2 := by
  have few : (d.transfers z an sel s).length ≤ 19 := by simpa [RgsMode.transfers] using d.order_length sel
  refine List.pairwise_iff_getElem.2 fun i j hi hj hij => ?_
  simpa [RgsMode.transfers] using d.addresses_eda_disjoint z (s.readReg an.reg) hij (by omega)

/-! ### RGS stores -/

theorem exec_rgsStore {z : Size} {d : RgsMode} {sel : RegSel} {an : AReg} {s : State}
    (hw : selectionRefusal sel = none)
    (hs : ∀ i, i < (d.order sel).length → s.accessStop true (d.eda z (s.readReg an.reg) i) z = none) :
    exec (z.rgsForm d sel an) s = .next (s.storedSelection z d sel an).advance := by
  rw [exec_rgsStoreForm, storeSelection, hw, conditional_holds (condHolds_alw _),
    (s.transferStop_eq_none true z d an sel).2 hs, unlessStopped]

/-- No later element touches an earlier one, so each stands after the loop as it was stored. -/
theorem State.storedSelection_holdsAt {s : State} (z : Size) (d : RgsMode) (sel : RegSel) (an : AReg)
    (h : Canonical s) (i : Nat) (hi : i < (d.order sel).length) :
    HoldsAt (s.storedSelection z d sel an) (d.eda z (s.readReg an.reg) i) z (s.readReg (d.order sel)[i]) :=
  (State.storeElements_get s z _ s h (d.transfers_disjoint z an sel s) _
    (d.mem_transfers z an sel s i hi)).of_memory_eq (writeReg_dmem _ _ _) (writeReg_imem _ _ _) (writeReg_params _ _ _)

theorem State.storedSelection_keepsMemoryBut (s : State) (z : Size) (d : RgsMode) (sel : RegSel) (an : AReg) :
    KeepsMemoryBut s (s.storedSelection z d sel an) z
      ((List.range (d.order sel).length).map (d.eda z (s.readReg an.reg))) := by
  rw [← d.transfers_snd]
  exact (State.storeElements_other s z _ s).of_memory_eq (writeReg_dmem _ _ _) (writeReg_imem _ _ _)
    (writeReg_params _ _ _)

theorem State.storedSelection_keepsRegs (s : State) (z : Size) (d : RgsMode) (sel : RegSel) (an : AReg) :
    KeepsRegs s (s.storedSelection z d sel an) [an.reg] := by
  obtain ⟨-, regs, -, -⟩ := State.storeElements_frame s z (d.transfers z an sel s) s
  exact fun r hr => (KeepsRegs.writeReg _ _ _ r hr).trans (regs r)

theorem State.storedSelection_bus (s : State) (z : Size) (d : RgsMode) (sel : RegSel) (an : AReg) :
    (s.storedSelection z d sel an).bus = s.bus ++ s.writes z
      ((d.order sel).zipIdx.map fun p => (d.eda z (s.readReg an.reg) p.2, s.readReg p.1)) := by
  rw [State.storedSelection, writeReg_bus, State.storeElements_bus, RgsMode.transfers, List.map_map]
  rfl

/-- Settles O39: the loop stores the elements, which lie apart, and the last write sets An. -/
theorem selectionStores : Obligations.SelectionStores := by
  intro z d sel an s canonical hw n eda hstop
  obtain ⟨rest, hp⟩ := s.storedSelection_frame z d sel an
  refine ⟨(s.storedSelection z d sel an).advance, exec_rgsStore (Size.rgsForm_wellFormed_iff.1 hw) hstop,
    fun i hi => (State.storedSelection_holdsAt z d sel an canonical i hi).of_memory_eq rfl rfl rfl,
    (s.storedSelection_keepsMemoryBut z d sel an).of_memory_eq rfl rfl rfl, ?_, fun r hr => ?_, rest.advance,
    s.storedSelection_bus z d sel an, State.advance_pc_eq_follow rest.stopped hp⟩
  · rw [readReg_advance]
    exact State.readReg_writeReg_an _ an _
  · rw [readReg_advance, s.storedSelection_keepsRegs z d sel an r hr]

end Sys2Proof.Machine

/-! SUPPORT for the statements about moves and the debug port (42_move_debugport.md): when the family accepts its
registers, and what its write does. mfdp is such a write in the state once DBI has been read. -/

namespace Sys2Proof.Machine

/-! ### When the move family writes -/

/-- EP where it may be named (10_state.md R37). -/
theorem State.epRefusal_of_usable {s : State} {regs : List Reg} (h : EpUsable s regs) : s.epRefusal regs = none := by
  by_cases named : Reg.ep ∈ regs
  · simp [State.epRefusal, h named]
  · simp [State.epRefusal, named]

/-- System mode, or a register that application mode does not protect (60_exceptions.md R328). -/
theorem State.protects_eq_false_iff {s : State} {r : Reg} :
    s.protects r = false ↔ s.cs.ir = true ∨ (r ≠ .cs ∧ r ≠ .ia) := by
  cases h : s.cs.ir <;> simp [State.protects, h]

theorem State.moveTo_of_not_protects {s : State} {rd : Reg} (v : Word) (after : State) (h : s.protects rd = false) :
    s.moveTo rd v after = .next (after.writeReg rd v).advance := by
  simp [State.moveTo, h]

/-! ### What the write does -/

/-- The next state of an instruction whose one effect is to write `v` to `rd`. -/
structure Writes (s t : State) (rd : Reg) (v : Word) : Prop where
  dest : t.readReg rd = writeView rd (s.readReg rd) v
  regs : KeepsRegs s t [rd]
  memory : KeepsMemory s t
  rest : KeepsRest s t
  bus : t.bus = s.bus
  pc : t.pc = s.follow

theorem KeepsRest.writeReg (s : State) (r : Reg) (v : Word) : KeepsRest s (s.writeReg r v) := by
  constructor <;> simp

theorem Writes.writeReg_advance (s : State) (rd : Reg) (v : Word) : Writes s (s.writeReg rd v).advance rd v where
  dest := by rw [readReg_advance, State.readReg_writeReg_self]
  regs r hr := by rw [readReg_advance, KeepsRegs.writeReg s rd v r hr]
  memory := .of_eq s _ (by simp) (by simp) (by simp)
  rest := (KeepsRest.writeReg s rd v).advance
  bus := by simp
  pc := State.advance_pc_eq_follow (writeReg_stopped s rd v) (writeReg_pc s rd v)

/-- Settles O28: with its registers accepted, each form of move runs the write of `moveTo`. -/
theorem moveWrites : Obligations.MoveWrites := by
  intro s rs rd k cnd system moved
  have unprotected := State.protects_eq_false_iff.2 system
  have runs {i : Instr} {regs : List Reg} {v : Word} (usable : EpUsable s regs)
      (hi : exec i s = conditional cnd (s.epRefusal regs) s (s.moveTo rd v s)) :
      UnderCondition cnd s i (moved i v) := by
    rw [State.epRefusal_of_usable usable, State.moveTo_of_not_protects v s unprotected] at hi
    obtain ⟨dest, regs, memory, rest, bus, pc⟩ := Writes.writeReg_advance s rd v
    exact .of_conditional hi fun he => ⟨_, he, dest, regs, memory, rest, bus, pc⟩
  exact ⟨fun usable => runs usable rfl, fun usable => runs usable rfl⟩

/-! ### The debug port -/

theorem State.dbiWord_of_driven {s : State} {d : Word} (h : s.dbi = some d) : s.dbiWord = d := by
  rw [State.dbiWord, h]

/-- Reading DBI touches the counter of free values alone, and only where nothing drives DBI. -/
theorem State.readDbi_eq (s : State) : s.readDbi = { s with draws := s.readDbi.draws } := by
  unfold State.readDbi
  split <;> rfl

theorem State.readDbi_draws_of_driven {s : State} (h : s.dbi ≠ none) : s.readDbi.draws = s.draws := by
  obtain ⟨d, driven⟩ := Option.ne_none_iff_exists'.1 h
  rw [State.readDbi, driven]

theorem exec_mfdp_of_not_protects {s : State} {rd : Reg} (usable : EpUsable s [rd]) (h : s.protects rd = false) :
    exec (.mfdp rd) s = .next (s.readDbi.writeReg rd s.dbiWord).advance := by
  rw [exec_mfdp, execMfdp, State.epRefusal_of_usable usable, conditional_holds (condHolds_alw _),
    State.moveTo_of_not_protects _ _ h]

/-- Settles O29: mfdp is the write of the word on DBI, made once DBI has been read. -/
theorem debugPortRead : Obligations.DebugPortRead := by
  intro s rd system usable
  have write := Writes.writeReg_advance s.readDbi rd s.dbiWord
  have draws : (s.readDbi.writeReg rd s.dbiWord).advance.draws = s.readDbi.draws := write.rest.draws
  refine ⟨_, s.dbiWord, exec_mfdp_of_not_protects usable (State.protects_eq_false_iff.2 system),
    fun _ => State.dbiWord_of_driven, ?_, fun r hr => ?_, .of_eq s _ (by simp) (by simp) (by simp), ?_,
    fun driven => draws.trans (State.readDbi_draws_of_driven driven), ?_, ?_⟩
  · rw [write.dest, readReg_readDbi]
  · rw [write.regs r hr, readReg_readDbi]
  · rw [draws, ← State.readDbi_eq]
    exact write.rest
  · rw [write.bus, readDbi_bus]
  · rw [write.pc, State.follow, State.follow, readDbi_stopped, readDbi_pc]

/-- Settles O30: mtdp has no condition, and the read of its register cannot raise the security exception. -/
theorem debugPortWrite : Obligations.DebugPortWrite := by
  intro s rs usable
  rw [exec_mtdp, execMtdp, State.epRefusal_of_usable usable, conditional_holds (condHolds_alw _)]
  rfl

end Sys2Proof.Machine

/-! SUPPORT for the statements about arithmetic (43_arithmetic.md): how a computation over general registers ends, the
model's results and flags as exact integers, and what the ten ordering conditions read off the flags of a comparison. -/

namespace Sys2Proof

namespace Machine

/-! ### Computations over general registers -/

theorem computeRefusal_gprs (gs : List Gpr) : computeRefusal (gs.map .gpr) = none := by
  simp [computeRefusal, Reg.isGpr]

/-- A computation over general registers, both ways its condition can fall. -/
theorem UnderCondition.of_compute {c : Cond} {s effect t : State} {i : Instr} (gs : List Gpr)
    (hi : exec i s = compute (gs.map .gpr) c s effect) (ht : effect.advance = t) :
    UnderCondition c s i (exec i s = .next t) := by
  rw [compute, computeRefusal_gprs] at hi
  exact .of_conditional hi fun h => h.trans (congrArg _ ht)

theorem UnderCondition.imp {c : Cond} {s : State} {i : Instr} {P Q : Prop} (h : UnderCondition c s i P)
    (hpq : P → Q) : UnderCondition c s i Q := ⟨fun hc => hpq (h.1 hc), h.2⟩

/-- A computation over general registers that has no condition. -/
theorem exec_of_compute_alw {s effect t : State} {i : Instr} (gs : List Gpr)
    (hi : exec i s = compute (gs.map .gpr) .alw s effect) (ht : effect.advance = t) : exec i s = .next t :=
  (UnderCondition.of_compute gs hi ht).1 (condHolds_alw s.cc)

theorem State.writeReg_gpr_advance (s : State) (d : Gpr) (v : Word) :
    (s.writeReg (.gpr d) v).advance = s.computed d v s.cc := rfl

theorem State.setFlags_writeReg_gpr_advance (s : State) (d : Gpr) (v : Word) (f : Flags) :
    ((s.setFlags f).writeReg (.gpr d) v).advance = s.computed d v f := rfl

theorem State.computed_gprs_self (s : State) (d : Gpr) (v : Word) (f : Flags) : (s.computed d v f).gprs[d] = v := by
  simp [State.computed]

theorem State.computed_gprs_of_ne {d g : Gpr} (s : State) (v : Word) (f : Flags) (h : d ≠ g) :
    (s.computed d v f).gprs[g] = s.gprs[g] := by
  simp [State.computed, Fin.val_ne_of_ne h]

/-! ### Sums -/

theorem Flags.carryWord_toNat (f : Flags) : f.carryWord.toNat = f.c.toNat := by
  cases h : f.c <;> simp [Flags.carryWord, h]

theorem sumOf_toNat (src1 src0 : Word) (cin : Bool) :
    (sumOf src1 src0 cin).toNat = (src1.toNat + src0.toNat + cin.toNat) % 2 ^ 32 := BitVec.toNat_ofNat ..

theorem sumOf_false (src1 src0 : Word) : sumOf src1 src0 false = src1 + src0 := by
  apply BitVec.eq_of_toNat_eq
  simp [sumOf_toNat]

theorem sumOf_carry (src1 src0 : Word) (f : Flags) : sumOf src1 src0 f.c = src1 + src0 + f.carryWord := by
  apply BitVec.eq_of_toNat_eq
  simp [sumOf_toNat, Flags.carryWord_toNat]

/-- The carry out of bit 31, whose formula takes the carry in from the result (43_arithmetic.md R210). -/
theorem addCarry_sumOf (src1 src0 : Word) (cin : Bool) :
    addCarry src0 src1 (sumOf src1 src0 cin) = decide (2 ^ 32 ≤ src1.toNat + src0.toNat + cin.toNat) := by
  have := cin.toNat_le
  rw [Bool.eq_iff_iff]
  simp only [addCarry, BitVec.msb_eq_decide, sumOf_toNat, Bool.or_eq_true, Bool.and_eq_true, Bool.not_eq_true',
    decide_eq_true_eq, decide_eq_false_iff_not]
  omega

/-- The signs show an overflow exactly where the signed sum does not fit, with a carry in as well. -/
theorem addOverflow_sumOf (src1 src0 : Word) (cin : Bool) :
    addOverflow src0 src1 (sumOf src1 src0 cin) =
      decide ((sumOf src1 src0 cin).toInt ≠ src1.toInt + src0.toInt + cin.toNat) := by
  have := cin.toNat_le
  rw [Bool.eq_iff_iff]
  simp only [addOverflow, BitVec.msb_eq_decide, BitVec.toInt_eq_toNat_cond, sumOf_toNat, Bool.or_eq_true,
    Bool.and_eq_true, Bool.not_eq_true', decide_eq_true_eq, decide_eq_false_iff_not]
  omega

theorem addFlags_sumOf (src1 src0 : Word) (cin : Bool) :
    addFlags src0 src1 (sumOf src1 src0 cin) = sumFlags src1 src0 cin true := by
  rw [addFlags, addCarry_sumOf, addOverflow_sumOf, BitVec.msb_eq_toInt]
  rfl

theorem Flags.stickyZero_sumFlags (f : Flags) (src1 src0 : Word) (cin : Bool) :
    f.stickyZero (sumFlags src1 src0 cin true) = sumFlags src1 src0 cin f.z := rfl

theorem addTo_advance (src1 src0 : Word) (d : Gpr) (s : State) :
    (addTo src0 src1 (.gpr d) s).advance = s.computed d (sumOf src1 src0 false) (sumFlags src1 src0 false true) := by
  rw [addTo, ← sumOf_false, addFlags_sumOf, State.setFlags_writeReg_gpr_advance]

theorem addWithCarry_advance (src1 src0 : Word) (d : Gpr) (s : State) :
    (addWithCarry src0 src1 (.gpr d) s).advance =
      s.computed d (sumOf src1 src0 s.cc.c) (sumFlags src1 src0 s.cc.c s.cc.z) := by
  rw [addWithCarry, ← sumOf_carry, addFlags_sumOf, Flags.stickyZero_sumFlags, State.setFlags_writeReg_gpr_advance]

/-- Settles O10: the three forms run one addition, whose flags are the exact ones. -/
theorem addtSum : Obligations.AddtSum := by
  intro s a b d k c cnd
  exact ⟨.of_compute [a, b, d] rfl (addTo_advance ..), .of_compute [b, d] rfl (addTo_advance ..),
    exec_of_compute_alw [b, d] rfl (addTo_advance ..)⟩

/-- Settles O11: as addt, with the carry flag in and Z limited by the old Z. -/
theorem addcSum : Obligations.AddcSum := by
  intro s a b d k cnd
  exact ⟨.of_compute [a, b, d] rfl (addWithCarry_advance ..), .of_compute [b, d] rfl (addWithCarry_advance ..)⟩

/-! ### Differences -/

theorem differenceOf_toNat (src1 src0 : Word) (bin : Bool) :
    ((differenceOf src1 src0 bin).toNat : Int) = (src1.toNat - src0.toNat - bin.toNat) % 2 ^ 32 := by
  rw [differenceOf, BitVec.toNat_ofInt]
  omega

theorem differenceOf_carry (src1 src0 : Word) (f : Flags) :
    differenceOf src1 src0 f.c = src1 - src0 - f.carryWord := by
  have := f.c.toNat_le
  have := differenceOf_toNat src1 src0 f.c
  apply BitVec.eq_of_toNat_eq
  rw [BitVec.toNat_sub, BitVec.toNat_sub, Flags.carryWord_toNat]
  omega

theorem differenceOf_false (src1 src0 : Word) : differenceOf src1 src0 false = src1 - src0 :=
  (differenceOf_carry src1 src0 Flags.clear).trans (BitVec.sub_zero _)

/-- The borrow out of bit 31, whose formula takes the borrow in from the result (43_arithmetic.md R210). -/
theorem subBorrow_differenceOf (src1 src0 : Word) (bin : Bool) :
    subBorrow src0 src1 (differenceOf src1 src0 bin) = decide (src1.toNat < src0.toNat + bin.toNat) := by
  have := bin.toNat_le
  have := differenceOf_toNat src1 src0 bin
  rw [Bool.eq_iff_iff]
  simp only [subBorrow, BitVec.msb_eq_decide, Bool.or_eq_true, Bool.and_eq_true, Bool.not_eq_true', decide_eq_true_eq,
    decide_eq_false_iff_not]
  omega

theorem subOverflow_differenceOf (src1 src0 : Word) (bin : Bool) :
    subOverflow src0 src1 (differenceOf src1 src0 bin) =
      decide ((differenceOf src1 src0 bin).toInt ≠ src1.toInt - src0.toInt - bin.toNat) := by
  have := bin.toNat_le
  have := differenceOf_toNat src1 src0 bin
  rw [Bool.eq_iff_iff]
  simp only [subOverflow, BitVec.msb_eq_decide, BitVec.toInt_eq_toNat_cond, Bool.or_eq_true, Bool.and_eq_true,
    Bool.not_eq_true', decide_eq_true_eq, decide_eq_false_iff_not]
  omega

theorem subFlags_differenceOf (src1 src0 : Word) (bin : Bool) :
    subFlags src0 src1 (differenceOf src1 src0 bin) = differenceFlags src1 src0 bin true := by
  rw [subFlags, subBorrow_differenceOf, subOverflow_differenceOf, BitVec.msb_eq_toInt]
  rfl

theorem Flags.stickyZero_differenceFlags (f : Flags) (src1 src0 : Word) (bin : Bool) :
    f.stickyZero (differenceFlags src1 src0 bin true) = differenceFlags src1 src0 bin f.z := rfl

theorem subtractFrom_advance (src1 src0 : Word) (d : Gpr) (s : State) :
    (subtractFrom src0 src1 (.gpr d) s).advance =
      s.computed d (differenceOf src1 src0 false) (differenceFlags src1 src0 false true) := by
  rw [subtractFrom, ← differenceOf_false, subFlags_differenceOf, State.setFlags_writeReg_gpr_advance]

theorem subtractWithCarry_advance (src1 src0 : Word) (d : Gpr) (s : State) :
    (subtractWithCarry src0 src1 (.gpr d) s).advance =
      s.computed d (differenceOf src1 src0 s.cc.c) (differenceFlags src1 src0 s.cc.c s.cc.z) := by
  rw [subtractWithCarry, ← differenceOf_carry, subFlags_differenceOf, Flags.stickyZero_differenceFlags,
    State.setFlags_writeReg_gpr_advance]

theorem compareFlags_advance (src1 src0 : Word) (s : State) :
    (compareFlags src0 src1 s).advance = { s with cc := differenceFlags src1 src0 false true, pc := s.follow } := by
  rw [compareFlags, ← differenceOf_false, subFlags_differenceOf]
  rfl

theorem compareWithCarry_advance (src1 src0 : Word) (s : State) :
    (compareWithCarry src0 src1 s).advance =
      { s with cc := differenceFlags src1 src0 s.cc.c s.cc.z, pc := s.follow } := by
  rw [compareWithCarry, ← differenceOf_carry, subFlags_differenceOf, Flags.stickyZero_differenceFlags]
  rfl

/-- Settles O12: the three forms run one subtraction, whose flags are the exact ones. -/
theorem subfDifference : Obligations.SubfDifference := by
  intro s a b d k c cnd
  exact ⟨.of_compute [a, b, d] rfl (subtractFrom_advance ..), .of_compute [b, d] rfl (subtractFrom_advance ..),
    exec_of_compute_alw [b, d] rfl (subtractFrom_advance ..)⟩

/-- Settles O13: as subf, with the carry flag as borrow in and Z limited by the old Z. -/
theorem subcDifference : Obligations.SubcDifference := by
  intro s a b d k cnd
  exact ⟨.of_compute [a, b, d] rfl (subtractWithCarry_advance ..),
    .of_compute [b, d] rfl (subtractWithCarry_advance ..)⟩

theorem exec_compCmpr_gprs (s : State) (a b : Gpr) :
    exec (.compCmpr (.gpr a) (.gpr b)) s =
      .next { s with cc := differenceFlags s.gprs[b] s.gprs[a] false true, pc := s.follow } :=
  exec_of_compute_alw [a, b] rfl (compareFlags_advance ..)

end Machine

/-- Settles O14: the flags of subf and subc, set and nothing written. -/
theorem compareFlags : Obligations.CompareFlags := by
  intro s a b k
  exact ⟨Machine.exec_compCmpr_gprs s a b, Machine.exec_of_compute_alw [b] rfl (Machine.compareFlags_advance ..),
    Machine.exec_of_compute_alw [a, b] rfl (Machine.compareWithCarry_advance ..),
    Machine.exec_of_compute_alw [b] rfl (Machine.compareWithCarry_advance ..)⟩

namespace Machine

/-! ### Results without flags -/

theorem srcC32U_toNat (hi : BitVec 16) : (srcC32U hi).toNat = 65536 * hi.toNat := by
  rw [srcC32U, toNat_append_sum, Nat.mul_comm]
  rfl

theorem add_srcC32U (v : Word) (hi : BitVec 16) : v + srcC32U hi = BitVec.ofNat 32 (v.toNat + 65536 * hi.toNat) := by
  apply BitVec.eq_of_toNat_eq
  rw [BitVec.toNat_add, srcC32U_toNat, BitVec.toNat_ofNat]

theorem zero_sub_eq_ofInt (v : Word) : 0 - v = BitVec.ofInt 32 (-v.toInt) := by
  rw [BitVec.ofInt_neg, BitVec.ofInt_toInt]
  exact BitVec.zero_sub v

/-- The absolute value; 2^31 does not fit and keeps its bits (43_arithmetic.md R219). -/
theorem absolute_eq_ofNat (v : Word) : (if v.msb then 0 - v else v) = BitVec.ofNat 32 v.toInt.natAbs := by
  rw [← BitVec.ofInt_natCast, Int.natCast_natAbs, BitVec.msb_eq_toInt]
  by_cases negative : v.toInt < 0
  · rw [if_pos (by simpa using negative), abs_of_neg negative, zero_sub_eq_ofInt]
  · rw [if_neg (by simpa using negative), abs_of_nonneg (not_lt.1 negative), BitVec.ofInt_toInt]

theorem addHigh_advance (v : Word) (hi : BitVec 16) (d : Gpr) (s : State) :
    (addHigh (srcC32U hi) v (.gpr d) s).advance =
      s.computed d (BitVec.ofNat 32 (v.toNat + 65536 * hi.toNat)) s.cc := by
  rw [addHigh, add_srcC32U, State.writeReg_gpr_advance]

theorem negate_advance (v : Word) (d : Gpr) (s : State) :
    (negate v (.gpr d) s).advance = s.computed d (BitVec.ofInt 32 (-v.toInt)) s.cc := by
  rw [negate, zero_sub_eq_ofInt, State.writeReg_gpr_advance]

theorem absolute_advance (v : Word) (d : Gpr) (s : State) :
    (absolute v (.gpr d) s).advance = s.computed d (BitVec.ofNat 32 v.toInt.natAbs) s.cc := by
  rw [absolute, absolute_eq_ofNat, State.writeReg_gpr_advance]

/-- Settles O15: each of the three only writes its result, which is the one of the integers modulo 2^32. -/
theorem unflaggedArithmetic : Obligations.UnflaggedArithmetic := by
  intro s a b d hi cnd
  exact ⟨exec_of_compute_alw [b, d] rfl (addHigh_advance ..), .of_compute [a, d] rfl (negate_advance ..),
    .of_compute [a, d] rfl (absolute_advance ..)⟩

/-! ### Leading zeros -/

theorem zerosBelow_le (w : Word) (n : Nat) : zerosBelow w n ≤ n := by
  induction n with
  | zero => exact Nat.le_refl 0
  | succ n ih =>
    unfold zerosBelow
    split <;> omega

/-- The counted bits, from bit `n - 1` down, are 0. -/
theorem getLsbD_of_lt_zerosBelow (w : Word) (n : Nat) {j : Nat} (h : j < zerosBelow w n) :
    w.getLsbD (n - 1 - j) = false := by
  induction n generalizing j with
  | zero => simp [zerosBelow] at h
  | succ n ih =>
    unfold zerosBelow at h
    split at h
    · simp at h
    · next zero =>
      cases j with
      | zero => simpa using zero
      | succ j =>
        rw [show n + 1 - 1 - (j + 1) = n - 1 - j by omega]
        exact ih (by omega)

/-- The bit at which the count stopped is 1. -/
theorem getLsbD_zerosBelow (w : Word) (n : Nat) (h : zerosBelow w n < n) :
    w.getLsbD (n - 1 - zerosBelow w n) = true := by
  induction n with
  | zero => simp at h
  | succ n ih =>
    unfold zerosBelow at h ⊢
    split
    · next one => simpa using one
    · next zero =>
      rw [if_neg zero] at h
      rw [show n + 1 - 1 - (zerosBelow w n + 1) = n - 1 - zerosBelow w n by omega]
      exact ih (by omega)

end Machine

/-- Settles O16: the count is that of `zerosBelow` for the whole word. -/
theorem leadingZeros : Obligations.LeadingZeros := by
  intro s a d cnd
  refine Machine.UnderCondition.imp (.of_compute [a, d] rfl (Machine.State.writeReg_gpr_advance ..)) fun he =>
    ⟨Machine.zerosBelow s.gprs[a] 32, Machine.zerosBelow_le _ 32, he, fun j hj => ?_, fun hn => ?_, fun h0 => ?_⟩
  · rw [BitVec.getMsbD, Machine.getLsbD_of_lt_zerosBelow _ 32 hj, Bool.and_false]
  · rw [BitVec.getMsbD, Machine.getLsbD_zerosBelow _ 32 hn]
    simpa using hn
  · by_contra hn
    have one := Machine.getLsbD_zerosBelow s.gprs[a] 32 (lt_of_le_of_ne (Machine.zerosBelow_le _ 32) hn)
    simp [h0] at one

namespace Machine

/-! ### Conditions after a comparison -/

theorem differenceFlags_z (src1 src0 : Word) : (differenceFlags src1 src0 false true).z = decide (src1 = src0) := by
  rw [Bool.eq_iff_iff, differenceFlags, differenceOf_false, Bool.true_and, decide_eq_true_eq, decide_eq_true_eq]
  exact sub_eq_zero

theorem differenceFlags_c (src1 src0 : Word) :
    (differenceFlags src1 src0 false true).c = decide (src1.toNat < src0.toNat) := rfl

/-- The sign of the difference is the sign of the exact difference where it fits, and the opposite where it does not. -/
theorem differenceFlags_n_eq_o_iff (src1 src0 : Word) :
    (differenceFlags src1 src0 false true).n = (differenceFlags src1 src0 false true).o ↔
      src0.toInt ≤ src1.toInt := by
  have := differenceOf_toNat src1 src0 false
  simp only [differenceFlags, BitVec.toInt_eq_toNat_cond, Bool.toNat_false, decide_eq_decide] at *
  omega

theorem condHolds_ige_iff (f : Flags) : condHolds .ige f = true ↔ f.n = f.o := by
  cases hn : f.n <;> cases ho : f.o <;> simp [condHolds, hn, ho]

theorem condHolds_ilo_iff (f : Flags) : condHolds .ilo f = true ↔ ¬ f.n = f.o := by
  cases hn : f.n <;> cases ho : f.o <;> simp [condHolds, hn, ho]

theorem condHolds_ile_iff (f : Flags) : condHolds .ile f = true ↔ f.z = true ∨ ¬ f.n = f.o := by
  rw [← condHolds_ilo_iff]
  simp [condHolds, or_assoc]

theorem condHolds_igt_iff (f : Flags) : condHolds .igt f = true ↔ f.z = false ∧ f.n = f.o := by
  rw [← condHolds_ige_iff]
  simp [condHolds]

/-- Settles O17: after the comparison Z is equality, C the unsigned order, and N with O the signed order. -/
theorem conditionsAfterCompare : Obligations.ConditionsAfterCompare := by
  intro s a b
  refine ⟨_, exec_compCmpr_gprs s a b, ?_⟩
  generalize s.gprs[b] = src1, s.gprs[a] = src0
  have z := differenceFlags_z src1 src0
  have c := differenceFlags_c src1 src0
  have signed := differenceFlags_n_eq_o_iff src1 src0
  have eqNat : src1 = src0 ↔ src1.toNat = src0.toNat := BitVec.toNat_inj.symm
  have eqInt : src1 = src0 ↔ src1.toInt = src0.toInt := BitVec.toInt_inj.symm
  refine ⟨?izr, ?inz, ?icr, ?inc, ?ils, ?ihi, ?ilo, ?ige, ?ile, ?igt⟩
  case izr => simp [condHolds, z]
  case inz => simp [condHolds, z]
  case icr => simp [condHolds, c]
  case inc => simp [condHolds, c]
  case ils =>
    simp only [condHolds, c, z, eqNat, Bool.or_eq_true, decide_eq_true_eq]
    omega
  case ihi =>
    simp only [condHolds, c, z, eqNat, Bool.and_eq_true, Bool.not_eq_true', decide_eq_false_iff_not]
    omega
  case ilo => rw [condHolds_ilo_iff, signed, not_le]
  case ige => rw [condHolds_ige_iff, signed]
  case ile =>
    rw [condHolds_ile_iff, z, signed, decide_eq_true_eq, eqInt]
    omega
  case igt =>
    rw [condHolds_igt_iff, z, signed, decide_eq_false_iff_not, eqInt]
    omega

/-! ### 64-bit sums -/

theorem sumFlags_c_toNat (src1 src0 : Word) (cin zin : Bool) :
    (sumFlags src1 src0 cin zin).c.toNat = (src1.toNat + src0.toNat + cin.toNat) / 2 ^ 32 := by
  have := cin.toNat_le
  rw [sumFlags, Bool.toNat, Bool.cond_decide]
  split <;> omega

/-- The high sum with the carry of the low sum is the high half of the whole sum. -/
theorem sumOf_append_sumOf (high1 low1 high0 low0 : Word) :
    sumOf high1 high0 (sumFlags low1 low0 false true).c ++ sumOf low1 low0 false =
      (high1 ++ low1) + (high0 ++ low0) := by
  apply BitVec.eq_of_toNat_eq
  simp only [BitVec.toNat_add, toNat_append_sum, sumOf_toNat, sumFlags_c_toNat, Bool.toNat_false]
  omega

theorem sumFlags_c_of_low (high1 low1 high0 low0 : Word) (zin : Bool) :
    (sumFlags high1 high0 (sumFlags low1 low0 false true).c zin).c =
      decide (2 ^ 64 ≤ (high1 ++ low1).toNat + (high0 ++ low0).toNat) := by
  rw [sumFlags, sumFlags_c_toNat, toNat_append_sum, toNat_append_sum, decide_eq_decide, Bool.toNat_false]
  omega

/-- The sticky Z of the high sum is set exactly where both halves are 0. -/
theorem append_eq_zero_iff (high low : Word) : high ++ low = 0#64 ↔ low = 0#32 ∧ high = 0#32 := by
  rw [← BitVec.toNat_inj, ← BitVec.toNat_inj, ← BitVec.toNat_inj, toNat_append_sum]
  simp only [BitVec.toNat_ofNat, Nat.zero_mod]
  omega

/-- Settles O18: the low sum leaves the high operands alone and its carry goes into the high sum. -/
theorem doubleWordAdd : Obligations.DoubleWordAdd := by
  intro s al ah bl bh dl dh hah hbh hdh
  obtain ⟨⟨low, -⟩, -⟩ := addtSum s al bl dl 0 0 .alw
  obtain ⟨⟨high, -⟩, -⟩ := addcSum (s.computed dl (sumOf s.gprs[bl] s.gprs[al] false)
    (sumFlags s.gprs[bl] s.gprs[al] false true)) ah bh dh 0 .alw
  refine ⟨_, _, low rfl, high rfl, ?_⟩
  rw [State.computed_gprs_self, State.computed_gprs_of_ne _ _ _ hdh.symm, State.computed_gprs_self,
    State.computed_gprs_of_ne _ _ _ hah, State.computed_gprs_of_ne _ _ _ hbh]
  refine ⟨sumOf_append_sumOf .., sumFlags_c_of_low .., ?_⟩
  rw [decide_eq_decide.2 (append_eq_zero_iff ..), Bool.decide_and]
  rfl

end Machine

/-! ### Known words -/

/-- Settles O4: each group is a closed fact about the decoder, evaluated word by word. -/
theorem knownWords : Obligations.KnownWords := by
  refine ⟨?examples, ?registers, ?addressRegisters, ?conditions, ?selectedUp, ?selectedDown⟩
  case examples => decide +kernel
  case registers => decide +kernel
  case addressRegisters => decide +kernel
  case conditions => decide +kernel
  case selectedUp => decide +kernel
  case selectedDown => decide +kernel

end Sys2Proof

/-! SUPPORT for the statements about logic (44_logic.md): the model's parity as a count of 1 bits, and what each of the
four operations leaves behind when its destination is a general register. -/

namespace Sys2Proof.Machine

/-! ### Parity -/

theorem filter_range_succ_length (p : Nat → Bool) (n : Nat) :
    ((List.range (n + 1)).filter p).length = ((List.range n).filter p).length + (p n).toNat := by
  rw [List.range_succ, List.filter_append, List.length_append]
  cases hp : p n <;> simp [hp]

/-- The exclusive or of the low bits is the parity of how many of them are 1. -/
theorem parityBelow_eq (w : Word) (n : Nat) :
    parityBelow w n = decide (((List.range n).filter w.getLsbD).length % 2 = 1) := by
  induction n with
  | zero => rfl
  | succ n ih =>
    rw [parityBelow, ih, filter_range_succ_length]
    cases w.getLsbD n with
    | false => simp
    | true =>
      rw [Bool.true_xor, ← decide_not, decide_eq_decide, Bool.toNat_true]
      omega

theorem parity_eq (w : Word) : parity w = decide (onesIn w % 2 = 1) := parityBelow_eq w 32

/-- The flags of andb, with the count of 1 bits for the parity (44_logic.md R230). -/
theorem andFlags_eq (old : Flags) (r : Word) :
    andFlags old r =
      { n := r.getLsbD 31
        z := decide (r = 0)
        o := decide (onesIn r % 2 = 1) ^^ old.c
        c := decide (onesIn r % 2 = 1) } := by
  rw [andFlags, parity_eq, BitVec.msb_eq_getLsbD_last, beq_eq_decide]

/-! ### The operations -/

theorem andBits_advance (src1 src0 : Word) (d : Gpr) (s : State) :
    (andBits src0 src1 (.gpr d) s).advance = s.computed d (src1 &&& src0) (andFlags s.cc (src1 &&& src0)) :=
  State.setFlags_writeReg_gpr_advance ..

theorem orBits_advance (src1 src0 : Word) (d : Gpr) (s : State) :
    (orBits src0 src1 (.gpr d) s).advance = s.computed d (src0 ||| src1) s.cc := by
  rw [orBits, BitVec.or_comm, State.writeReg_gpr_advance]

theorem xorBits_advance (src1 src0 : Word) (d : Gpr) (s : State) :
    (xorBits src0 src1 (.gpr d) s).advance = s.computed d (src0 ^^^ src1) s.cc := by
  rw [xorBits, BitVec.xor_comm, State.writeReg_gpr_advance]

/-- The exclusive or with a word of 1 bits is the complement (44_logic.md R233). -/
theorem invertBits_advance (src : Word) (d : Gpr) (s : State) :
    (invertBits src (.gpr d) s).advance = s.computed d (~~~src) s.cc := by
  have ones : 0xFFFFFFFF#32 = BitVec.allOnes 32 := rfl
  rw [invertBits, ones, BitVec.xor_allOnes, State.writeReg_gpr_advance]

/-- Settles O19: both forms run one and, whose parity flag counts the 1 bits of the result. -/
theorem andParity : Obligations.AndParity := by
  intro s a b d c cnd
  simp only [← andFlags_eq]
  exact ⟨.of_compute [a, b, d] rfl (andBits_advance ..), exec_of_compute_alw [b, d] rfl (andBits_advance ..)⟩

/-- Settles O20: each of the five forms only writes its result. -/
theorem orXorInvert : Obligations.OrXorInvert := by
  intro s a b d c cnd
  exact ⟨.of_compute [a, b, d] rfl (orBits_advance ..), exec_of_compute_alw [b, d] rfl (orBits_advance ..),
    .of_compute [a, b, d] rfl (xorBits_advance ..), exec_of_compute_alw [b, d] rfl (xorBits_advance ..),
    .of_compute [a, d] rfl (invertBits_advance ..)⟩

end Sys2Proof.Machine

/-! SUPPORT for the statements about shifts and bits (45_shift_bit.md): the model's shifts as arithmetic on the integer
a word stands for, and the bits of the words that the bit instructions compute. -/

namespace Sys2Proof.Machine

/-! ### The shift count and the bit index -/

/-- Bits [4:0] of a register are its value modulo 32 (45_shift_bit.md R240). -/
theorem lowFive_eq (v : Word) : lowFive v = v.toNat % 32 := BitVec.extractLsb'_toNat ..

theorem lowFive_lt (v : Word) : lowFive v < 32 := BitVec.isLt _

/-- A computation whose only effect is the value `v` in a general register, with `v` given in another form. -/
theorem State.writeReg_gpr_advance_of_eq {v v' : Word} (s : State) (d : Gpr) (h : v = v') :
    (s.writeReg (.gpr d) v).advance = s.computed d v' s.cc := h ▸ s.writeReg_gpr_advance d v

/-! ### Shifts -/

theorem shiftLeft_eq_ofNat (v : Word) (k : Nat) : shiftLeft v k = BitVec.ofNat 32 (v.toNat * 2 ^ k) := by
  apply BitVec.eq_of_toNat_eq
  rw [shiftLeft, BitVec.toNat_shiftLeft, Nat.shiftLeft_eq, BitVec.toNat_ofNat]

theorem shiftRight_eq_ofNat (v : Word) (k : Nat) : shiftRight v k = BitVec.ofNat 32 (v.toNat / 2 ^ k) := by
  rw [← Nat.shiftRight_eq_div_pow, ← BitVec.toNat_ushiftRight, BitVec.ofNat_toNat, BitVec.setWidth_eq, shiftRight]

/-- The count 0, which the model keeps apart, is the identity of the rotation as well. -/
theorem rotateLeft_eq {k : Nat} (v : Word) (h : k < 32) : rotateLeft v k = v.rotateLeft k := by
  rw [BitVec.rotateLeft_eq_rotateLeftAux_of_lt h, BitVec.rotateLeftAux, rotateLeft]
  split
  · next zero =>
    rw [zero, Nat.sub_zero, BitVec.shiftLeft_zero, BitVec.ushiftRight_eq_zero (le_refl 32), BitVec.or_zero]
  · rfl

/-- The 1 bits that the model puts in from the left are exactly those at `32 - k` and above (45_shift_bit.md R244). -/
theorem getLsbD_signBits {i : Nat} (k : Nat) (hi : i < 32) :
    (0xFFFFFFFF#32 <<< (32 - k)).getLsbD i = decide (32 ≤ k + i) := by
  have ones : 0xFFFFFFFF#32 = BitVec.allOnes 32 := rfl
  rw [ones, BitVec.getLsbD_shiftLeft, BitVec.getLsbD_allOnes, Bool.eq_iff_iff]
  simp only [Bool.and_eq_true, Bool.not_eq_true', decide_eq_true_eq, decide_eq_false_iff_not]
  omega

/-- They are the copies of the sign of the arithmetic shift. -/
theorem shiftRightSigned_eq_sshiftRight (v : Word) (k : Nat) : shiftRightSigned v k = v.sshiftRight k := by
  rw [shiftRightSigned]
  cases sign : v.msb with
  | false => exact (BitVec.sshiftRight_eq_of_msb_false sign).symm
  | true =>
    by_cases zero : k = 0
    · simp [zero]
    · apply BitVec.eq_of_getLsbD_eq
      intro i hi
      rw [if_pos (by simpa using zero), BitVec.getLsbD_or, BitVec.getLsbD_ushiftRight, getLsbD_signBits k hi,
        BitVec.getLsbD_sshiftRight, sign, decide_eq_false (not_le.2 hi)]
      by_cases inside : k + i < 32
      · simp [inside, not_le.2 inside]
      · simp [inside, not_lt.1 inside]

/-- The arithmetic shift is the quotient rounded down. -/
theorem shiftRightSigned_eq_ofInt (v : Word) (k : Nat) :
    shiftRightSigned v k = BitVec.ofInt 32 (v.toInt / 2 ^ k) := by
  rw [shiftRightSigned_eq_sshiftRight, BitVec.sshiftRight, Int.shiftRight_eq_div_pow, Nat.cast_pow, Nat.cast_ofNat]

/-- Settles O21: each of the four operations, by a constant and by a register, only writes its result. -/
theorem shiftsAndRotate : Obligations.ShiftsAndRotate := by
  intro s a b d k cnd
  simp only [← lowFive_eq]
  have constant : k.toNat < 32 := k.isLt
  have register : lowFive s.gprs[a] < 32 := lowFive_lt _
  exact ⟨.of_compute [b, d] rfl (s.writeReg_gpr_advance_of_eq d (shiftLeft_eq_ofNat ..)),
    .of_compute [a, b, d] rfl (s.writeReg_gpr_advance_of_eq d (shiftLeft_eq_ofNat ..)),
    .of_compute [b, d] rfl (s.writeReg_gpr_advance_of_eq d (rotateLeft_eq _ constant)),
    .of_compute [a, b, d] rfl (s.writeReg_gpr_advance_of_eq d (rotateLeft_eq _ register)),
    .of_compute [b, d] rfl (s.writeReg_gpr_advance_of_eq d (shiftRight_eq_ofNat ..)),
    .of_compute [a, b, d] rfl (s.writeReg_gpr_advance_of_eq d (shiftRight_eq_ofNat ..)),
    .of_compute [b, d] rfl (s.writeReg_gpr_advance_of_eq d (shiftRightSigned_eq_ofInt ..)),
    .of_compute [a, b, d] rfl (s.writeReg_gpr_advance_of_eq d (shiftRightSigned_eq_ofInt ..))⟩

/-! ### Bits -/

/-- The mask of a bit has a 1 at that bit alone. -/
theorem getLsbD_bitMask {b : Nat} (h : b < 32) (j : Nat) : (bitMask b).getLsbD j = decide (j = b) := by
  rw [bitMask, ← BitVec.twoPow_eq, BitVec.getLsbD_twoPow, decide_eq_true h, Bool.true_and, decide_eq_decide]
  exact eq_comm

theorem getLsbD_setBit {b : Nat} (v : Word) (h : b < 32) (j : Nat) :
    (setBit v b).getLsbD j = if j = b then true else v.getLsbD j := by
  rw [setBit, BitVec.getLsbD_or, getLsbD_bitMask h]
  split <;> simp [*]

theorem getLsbD_clearBit {b : Nat} (v : Word) (h : b < 32) {j : Nat} (hj : j < 32) :
    (clearBit v b).getLsbD j = if j = b then false else v.getLsbD j := by
  rw [clearBit, BitVec.getLsbD_and, BitVec.getLsbD_not, getLsbD_bitMask h]
  split <;> simp [*]

theorem getLsbD_toggleBit {b : Nat} (v : Word) (h : b < 32) (j : Nat) :
    (toggleBit v b).getLsbD j = if j = b then !v.getLsbD b else v.getLsbD j := by
  rw [toggleBit, BitVec.getLsbD_xor, getLsbD_bitMask h]
  split <;> simp [*]

/-- A computation whose only effect is a word, described bit by bit, in a general register. -/
theorem UnderCondition.of_compute_bits {c : Cond} {s : State} {i : Instr} {d : Gpr} {v : Word} {bits : Nat → Bool}
    (gs : List Gpr) (hi : exec i s = compute (gs.map .gpr) c s (s.writeReg (.gpr d) v))
    (hv : ∀ j, j < 32 → v.getLsbD j = bits j) :
    UnderCondition c s i (∃ w : Word, exec i s = .next (s.computed d w s.cc) ∧ ∀ j, j < 32 → w.getLsbD j = bits j) :=
  (UnderCondition.of_compute gs hi (s.writeReg_gpr_advance d v)).imp fun h => ⟨v, h, hv⟩

/-- Settles O22: each of the three operations, by a constant and by a register, changes the indexed bit alone. -/
theorem bitChanges : Obligations.BitChanges := by
  intro s a b d k cnd
  simp only [← lowFive_eq]
  have constant : k.toNat < 32 := k.isLt
  have register : lowFive s.gprs[a] < 32 := lowFive_lt _
  exact ⟨.of_compute_bits [b, d] rfl fun j _ => getLsbD_setBit _ constant j,
    .of_compute_bits [a, b, d] rfl fun j _ => getLsbD_setBit _ register j,
    .of_compute_bits [b, d] rfl fun _ => getLsbD_clearBit _ constant,
    .of_compute_bits [a, b, d] rfl fun _ => getLsbD_clearBit _ register,
    .of_compute_bits [b, d] rfl fun j _ => getLsbD_toggleBit _ constant j,
    .of_compute_bits [a, b, d] rfl fun j _ => getLsbD_toggleBit _ register j⟩

/-! ### The bit test -/

theorem bitMask_ne_zero {b : Nat} (h : b < 32) : bitMask b ≠ 0 := fun zero => by
  have bit := getLsbD_bitMask h b
  simp [zero] at bit

theorem and_bitMask_beq_zero {b : Nat} (v : Word) (h : b < 32) : (v &&& bitMask b == 0) = !v.getLsbD b := by
  rw [bitMask, ← BitVec.twoPow_eq, BitVec.and_twoPow, BitVec.twoPow_eq]
  cases v.getLsbD b with
  | false => rfl
  | true => exact beq_false_of_ne (bitMask_ne_zero h)

/-- Only the mask of bit 31 leaves a sign bit in the masked word (45_shift_bit.md R248). -/
theorem testBit_advance {b : Nat} (v : Word) (h : b < 32) (s : State) :
    (testBit b v s).advance =
      { s with
        cc := { n := decide (b = 31) && v.getLsbD 31, z := !v.getLsbD b, o := false, c := false }
        pc := s.follow } := by
  rw [testBit, testFlags, and_bitMask_beq_zero v h, BitVec.msb_eq_getLsbD_last, BitVec.getLsbD_and,
    getLsbD_bitMask h, Bool.and_comm]
  simp only [Nat.reduceSub, eq_comm (a := 31)]
  rfl

/-- Settles O23: both forms set the flags of the tested bit and nothing else. -/
theorem bitTest : Obligations.BitTest := by
  intro s a b k cnd
  simp only [← lowFive_eq]
  exact ⟨.of_compute [b] rfl (testBit_advance _ k.isLt s), .of_compute [a, b] rfl (testBit_advance _ (lowFive_lt _) s)⟩

end Sys2Proof.Machine

/-! SUPPORT for the statements about multiply and byte order (46_multiply_endian.md): the model's products as products
of the integers that the operands stand for, and the byte order instructions on a word given by its four bytes. -/

namespace Sys2Proof.Machine

/-! ### Products -/

/-- Operands extended with zeros multiply as the numbers they stand for, modulo `2 ^ w`. -/
theorem setWidth_mul_setWidth {m n : Nat} (w : Nat) (x : BitVec m) (y : BitVec n) :
    x.setWidth w * y.setWidth w = BitVec.ofNat w (x.toNat * y.toNat) := by
  rw [BitVec.ofNat_mul, BitVec.ofNat_toNat, BitVec.ofNat_toNat]

/-- Operands extended with their signs multiply as the signed numbers they stand for, modulo `2 ^ w`. -/
theorem signExtend_mul_signExtend {m n : Nat} (w : Nat) (x : BitVec m) (y : BitVec n) :
    x.signExtend w * y.signExtend w = BitVec.ofInt w (x.toInt * y.toInt) := by
  rw [BitVec.ofInt_mul, BitVec.signExtend, BitVec.signExtend]

/-- Bits [63:32] are the quotient by 2^32, rounded down for a negative number as well (46_multiply_endian.md R262). -/
theorem ofInt_extractLsb'_high (p : Int) :
    (BitVec.ofInt 64 p).extractLsb' 32 32 = BitVec.ofInt 32 (p / 2 ^ 32) := by
  apply BitVec.eq_of_toNat_eq
  rw [BitVec.extractLsb'_toNat, Nat.shiftRight_eq_div_pow, BitVec.toNat_ofInt, BitVec.toNat_ofInt]
  omega

theorem ofNat_extractLsb'_high (p : Nat) :
    (BitVec.ofNat 64 p).extractLsb' 32 32 = BitVec.ofNat 32 (p / 2 ^ 32) := by
  rw [← BitVec.ofInt_natCast, ofInt_extractLsb'_high, ← BitVec.ofInt_natCast, Int.natCast_ediv, Nat.cast_pow,
    Nat.cast_ofNat]

theorem multiplyLow_advance (src1 src0 : Word) (d : Gpr) (s : State) :
    (multiplyLow src0 src1 (.gpr d) s).advance = s.computed d (BitVec.ofNat 32 (src1.toNat * src0.toNat)) s.cc := by
  rw [multiplyLow, ← setWidth_mul_setWidth, BitVec.setWidth_eq, BitVec.setWidth_eq, State.writeReg_gpr_advance]

theorem multiplyHighUnsigned_advance (src1 src0 : Word) (d : Gpr) (s : State) :
    (multiplyHighUnsigned src0 src1 (.gpr d) s).advance =
      s.computed d ((src1.setWidth 64 * src0.setWidth 64).extractLsb' 32 32) s.cc := by
  rw [multiplyHighUnsigned, setWidth_mul_setWidth, ofNat_extractLsb'_high, State.writeReg_gpr_advance]

theorem multiplyHighSigned_advance (src1 src0 : Word) (d : Gpr) (s : State) :
    (multiplyHighSigned src0 src1 (.gpr d) s).advance =
      s.computed d ((src1.signExtend 64 * src0.signExtend 64).extractLsb' 32 32) s.cc := by
  rw [multiplyHighSigned, signExtend_mul_signExtend, ofInt_extractLsb'_high, State.writeReg_gpr_advance]

theorem multiplyConstantUnsigned_advance (c : BitVec 16) (v : Word) (d : Gpr) (s : State) :
    (multiplyConstantUnsigned (srcC16U c) v (.gpr d) s).advance =
      s.computed d (BitVec.ofNat 32 (c.toNat * v.toNat)) s.cc := by
  rw [multiplyConstantUnsigned, srcC16U, ← setWidth_mul_setWidth, v.setWidth_eq, State.writeReg_gpr_advance]

/-- Only the sign of the constant matters: the register is as wide as the result (46_multiply_endian.md R264). -/
theorem multiplyConstantSigned_advance (c : BitVec 16) (v : Word) (d : Gpr) (s : State) :
    (multiplyConstantSigned (srcC16S c) v (.gpr d) s).advance =
      s.computed d (BitVec.ofInt 32 (c.toInt * v.toInt)) s.cc := by
  rw [multiplyConstantSigned, srcC16S, ← signExtend_mul_signExtend, v.signExtend_eq, State.writeReg_gpr_advance]

/-- Settles O24: each of the five only writes its result, the low or the high word of the exact product. -/
theorem products : Obligations.Products := by
  intro s a b d c cnd
  exact ⟨.of_compute [a, b, d] rfl (multiplyLow_advance ..),
    .of_compute [a, b, d] rfl (multiplyHighUnsigned_advance ..),
    .of_compute [a, b, d] rfl (multiplyHighSigned_advance ..),
    exec_of_compute_alw [b, d] rfl (multiplyConstantUnsigned_advance ..),
    exec_of_compute_alw [b, d] rfl (multiplyConstantSigned_advance ..)⟩

/-! ### Byte order -/

theorem byte_and_ones (b : Byte) : b &&& 0xFF#8 = b := BitVec.and_allOnes

section
variable (b0 b1 b2 b3 c0 c1 c2 c3 : Byte)

theorem wordOfBytes_and :
    wordOfBytes b0 b1 b2 b3 &&& wordOfBytes c0 c1 c2 c3 =
      wordOfBytes (b0 &&& c0) (b1 &&& c1) (b2 &&& c2) (b3 &&& c3) := by
  rw [wordOfBytes, wordOfBytes, wordOfBytes, ← BitVec.and_append, ← BitVec.and_append, ← BitVec.and_append]

theorem wordOfBytes_or :
    wordOfBytes b0 b1 b2 b3 ||| wordOfBytes c0 c1 c2 c3 =
      wordOfBytes (b0 ||| c0) (b1 ||| c1) (b2 ||| c2) (b3 ||| c3) := by
  rw [wordOfBytes, wordOfBytes, wordOfBytes, ← BitVec.or_append, ← BitVec.or_append, ← BitVec.or_append]

theorem wordOfBytes_shiftLeft_eight : wordOfBytes b0 b1 b2 b3 <<< 8 = wordOfBytes 0#8 b0 b1 b2 := by
  apply BitVec.eq_of_toNat_eq
  rw [BitVec.toNat_shiftLeft, Nat.shiftLeft_eq, wordOfBytes_toNat, wordOfBytes_toNat, BitVec.toNat_zero]
  omega

theorem wordOfBytes_ushiftRight_eight : wordOfBytes b0 b1 b2 b3 >>> 8 = wordOfBytes b1 b2 b3 0#8 := by
  apply BitVec.eq_of_toNat_eq
  rw [BitVec.toNat_ushiftRight, Nat.shiftRight_eq_div_pow, wordOfBytes_toNat, wordOfBytes_toNat, BitVec.toNat_zero]
  omega

theorem wordOfBytes_shiftLeft_24 : wordOfBytes b0 b1 b2 b3 <<< 24 = wordOfBytes 0#8 0#8 0#8 b0 := by
  rw [show 24 = 8 + 8 + 8 from rfl, BitVec.shiftLeft_add, BitVec.shiftLeft_add]
  simp only [wordOfBytes_shiftLeft_eight]

theorem wordOfBytes_ushiftRight_24 : wordOfBytes b0 b1 b2 b3 >>> 24 = wordOfBytes b3 0#8 0#8 0#8 := by
  rw [show 24 = 8 + 8 + 8 from rfl, BitVec.shiftRight_add, BitVec.shiftRight_add]
  simp only [wordOfBytes_ushiftRight_eight]

/-- The masks keep or clear whole bytes, and each byte of the result comes from one operand of the or
(46_multiply_endian.md R265). -/
theorem swapShort_wordOfBytes (rd : Reg) (s : State) :
    swapShort (wordOfBytes b0 b1 b2 b3) rd s = s.writeReg rd (wordOfBytes b1 b0 b2 b3) := by
  have high : 0xFFFF0000#32 = wordOfBytes 0#8 0#8 0xFF#8 0xFF#8 := rfl
  have low : 0xFF#32 = wordOfBytes 0xFF#8 0#8 0#8 0#8 := rfl
  rw [swapShort, high, low]
  simp only [wordOfBytes_and, wordOfBytes_shiftLeft_eight, wordOfBytes_ushiftRight_eight, wordOfBytes_or, byte_and_ones,
    BitVec.and_zero, BitVec.or_zero, BitVec.zero_or]

theorem reverseBytes_wordOfBytes (rd : Reg) (s : State) :
    reverseBytes (wordOfBytes b0 b1 b2 b3) rd s = s.writeReg rd (wordOfBytes b3 b2 b1 b0) := by
  have low : 0xFF#32 = wordOfBytes 0xFF#8 0#8 0#8 0#8 := rfl
  have second : 0xFF00#32 = wordOfBytes 0#8 0xFF#8 0#8 0#8 := rfl
  rw [reverseBytes, low, second]
  simp only [wordOfBytes_and, wordOfBytes_shiftLeft_eight, wordOfBytes_ushiftRight_eight, wordOfBytes_shiftLeft_24,
    wordOfBytes_ushiftRight_24, wordOfBytes_or, byte_and_ones, BitVec.and_zero, BitVec.or_zero, BitVec.zero_or]

end

theorem swapShort_advance (v : Word) (d : Gpr) (s : State) :
    (swapShort v (.gpr d) s).advance =
      s.computed d (wordOfBytes (byteOfWord v 1) (byteOfWord v 0) (byteOfWord v 2) (byteOfWord v 3)) s.cc := by
  conv_lhs => rw [← wordOfBytes_byteOfWord v]
  rw [swapShort_wordOfBytes, State.writeReg_gpr_advance]

theorem reverseBytes_advance (v : Word) (d : Gpr) (s : State) :
    (reverseBytes v (.gpr d) s).advance =
      s.computed d (wordOfBytes (byteOfWord v 3) (byteOfWord v 2) (byteOfWord v 1) (byteOfWord v 0)) s.cc := by
  conv_lhs => rw [← wordOfBytes_byteOfWord v]
  rw [reverseBytes_wordOfBytes, State.writeReg_gpr_advance]

/-- Settles O25: both forms only write the bytes of their source, put together in another order. -/
theorem byteOrder : Obligations.ByteOrder := by
  intro s a d cnd
  exact ⟨.of_compute [a, d] rfl (swapShort_advance ..), .of_compute [a, d] rfl (reverseBytes_advance ..)⟩

end Sys2Proof.Machine

/-! SUPPORT for the statements about flow control (47_flow_control.md): where a jump and a branch lead, what a flow
instruction does to a running core, and what taking interrupt I0 does where an interrupt-enable instruction traps. -/

namespace Sys2Proof

namespace Machine

/-! ### Targets -/

/-- The coded offset counts words (40_operands_and_conditions.md R154). -/
theorem branchOffset_eq_ofInt (off : BitVec 14) : branchOffset off = BitVec.ofInt 32 (4 * off.toInt) := by
  have low : (off ++ 0#2).toNat = off.toNat * 4 := toNat_append_sum off 0#2
  have words : (off ++ 0#2).toInt = 4 * off.toInt := by
    simp only [BitVec.toInt_eq_toNat_cond, low]
    omega
  rw [branchOffset, BitVec.signExtend, words]

/-- The coded address counts words (40_operands_and_conditions.md R153). -/
theorem directTarget_eq_ofNat (ia : BitVec 27) : directTarget ia = BitVec.ofNat 32 (4 * ia.toNat) := by
  rw [directTarget, ← BitVec.ofNat_toNat, toNat_append_sum, Nat.mul_comm]
  rfl

/-! ### Flow instructions of a running core -/

theorem flow_of_running {s : State} (running : s.stopped = false) (effect : State) : flow s effect = .next effect := by
  simp [flow, running]

theorem KeepsRest.jumpTo {s t : State} (h : KeepsRest s t) (a : Word) : KeepsRest s (t.jumpTo a) :=
  ⟨h.hcc, h.hccSaved, h.stopped, h.strqSeen, h.lia, h.dbo, h.iack, h.inputs, h.dbi, h.draws, h.params⟩

/-- A jump that saves the return address writes SA and pc alone (47_flow_control.md R272). -/
theorem State.link_jumpTo_effect (s : State) (a : Word) :
    (s.link.jumpTo a).readReg .sa = (s.pc + 4#32) &&& 0xFFFFFFFC#32 ∧ KeepsRegs s (s.link.jumpTo a) [.sa] ∧
      KeepsMemory s (s.link.jumpTo a) ∧ KeepsRest s (s.link.jumpTo a) ∧ (s.link.jumpTo a).bus = s.bus := by
  refine ⟨?_, fun r hr => ?_, .of_eq s _ rfl rfl rfl, (KeepsRest.writeReg s .sa _).jumpTo a, rfl⟩
  · rw [readReg_jumpTo, State.link, State.readReg_writeReg_self]
    rfl
  · rw [readReg_jumpTo, State.link, KeepsRegs.writeReg s .sa _ r hr]

/-- Settles O42: each of the five is a flow instruction, whose effect a running core has. -/
theorem jumpsAndReturns : Obligations.JumpsAndReturns := by
  intro s ia running
  rw [← directTarget_eq_ofNat]
  exact ⟨flow_of_running running _, flow_of_running running _, flow_of_running running _,
    ⟨_, flow_of_running running _, rfl, s.link_jumpTo_effect _⟩,
    ⟨_, flow_of_running running _, rfl, s.link_jumpTo_effect _⟩⟩

/-! ### The loop branch -/

theorem State.decremented_eq_ofInt (s : State) : s.decremented = BitVec.ofInt 32 (s.lc.toNat - 1) := by
  apply BitVec.eq_of_toNat_eq
  rw [State.decremented, BitVec.toNat_sub, BitVec.toNat_ofInt, BitVec.toNat_one (by decide)]
  omega

theorem State.decremented_eq_zero_iff (s : State) : s.decremented = 0 ↔ s.lc = 1#32 := sub_eq_zero

/-- Settles O43: the decremented counter is zero exactly where LC was 1. -/
theorem loopBranch : Obligations.LoopBranch := by
  intro s off running
  rw [exec_brlc, execBrlc, flow_of_running running, State.branchTarget, branchOffset_eq_ofInt]
  simp only [bne_iff_ne, ne_eq, ite_not, s.decremented_eq_zero_iff]
  rw [s.decremented_eq_ofInt]
  rfl

/-! ### Conditional branches -/

/-- A branch of a running core on a condition with a known value. -/
theorem exec_of_branchOn {s : State} {i : Instr} {c : Cond} {off : BitVec 14} {taken : Bool}
    (hint : Bool) (running : s.stopped = false) (hi : exec i s = branchOn c off hint s)
    (hc : condHolds c s.cc = taken) :
    exec i s = .next { s with pc := if taken then s.pc + BitVec.ofInt 32 (4 * off.toInt) else s.pc + 4#32 } := by
  rw [hi, branchOn, flow_of_running running, hc, State.branchTarget, branchOffset_eq_ofInt]
  cases taken <;> rfl

/-- Settles O44: the condition of each branch is its flag or the negated flag. -/
theorem flagBranches : Obligations.FlagBranches := by
  intro s off hint running
  have branch {i : Instr} (c : Cond) (hi : exec i s = branchOn c off hint s) :=
    exec_of_branchOn hint running hi rfl
  exact ⟨branch .inc rfl, branch .icr rfl, branch .ino rfl, branch .iof rfl, branch .inz rfl, branch .izr rfl,
    branch .ips rfl, branch .ing rfl⟩

theorem condHolds_ihi (f : Flags) : condHolds .ihi f = !(f.c || f.z) := (Bool.not_or f.c f.z).symm

theorem condHolds_ilo (f : Flags) : condHolds .ilo f = (f.n != f.o) :=
  Bool.eq_iff_iff.2 ((condHolds_ilo_iff f).trans bne_iff_ne.symm)

theorem condHolds_ige (f : Flags) : condHolds .ige f = (f.n == f.o) :=
  Bool.eq_iff_iff.2 ((condHolds_ige_iff f).trans beq_iff_eq.symm)

theorem condHolds_ile (f : Flags) : condHolds .ile f = (f.z || f.n != f.o) := by
  rw [← condHolds_ilo]
  exact Bool.or_assoc f.z _ _

theorem condHolds_igt (f : Flags) : condHolds .igt f = (!f.z && f.n == f.o) := by
  rw [← condHolds_ige]
  rfl

/-- Settles O45: the condition of each branch is its combination of flags. -/
theorem comparisonBranches : Obligations.ComparisonBranches := fun s _ hint running =>
  ⟨exec_of_branchOn hint running rfl rfl, exec_of_branchOn hint running rfl (condHolds_ihi s.cc),
    exec_of_branchOn hint running rfl (condHolds_ilo s.cc), exec_of_branchOn hint running rfl (condHolds_ige s.cc),
    exec_of_branchOn hint running rfl (condHolds_ile s.cc), exec_of_branchOn hint running rfl (condHolds_igt s.cc)⟩

/-! ### Return from an interrupt -/

theorem exec_rtir_of_running {s : State} (running : s.stopped = false) :
    exec .rtir s = if s.cs.ir then .next s.leaveInterrupt else .refused .returnOutsideInterrupt := by
  simp [execRtir, running]

theorem State.savedFlags_of_saved {s : State} (saved : s.hccSaved = true) : s.savedFlags = s.hcc := if_pos saved

theorem State.leaveInterrupt_draws_of_saved {s : State} (saved : s.hccSaved = true) :
    s.leaveInterrupt.draws = s.draws := by
  simp [State.leaveInterrupt, State.flagsRestored, saved]

theorem KeepsRegs.leaveInterrupt (s : State) : KeepsRegs s s.leaveInterrupt [.cc, .cs] := by
  intro r hr
  cases r with
  | cc | cs => simp at hr
  | _ => simp [State.readReg, State.idWord]

theorem KeepsRest.leaveInterrupt (s : State) :
    KeepsRest { s with draws := s.leaveInterrupt.draws } s.leaveInterrupt := by
  constructor <;> simp

/-- Settles O46: in system mode rtir is `leaveInterrupt`, in application mode it is refused. -/
theorem returnFromInterrupt : Obligations.ReturnFromInterrupt := by
  intro s running
  rw [exec_rtir_of_running running]
  refine ⟨fun system => ⟨s.leaveInterrupt, if_pos system, rfl, State.savedFlags_of_saved, rfl, .leaveInterrupt s,
    .of_eq s _ (by simp) (by simp) (by simp), .leaveInterrupt s, State.leaveInterrupt_draws_of_saved, by simp⟩,
    fun application => ?_⟩
  rw [application]
  rfl

/-! ### Interrupt entry -/

/-- CS without its low bits is the base of the vector table (60_exceptions.md R324). -/
theorem ControlStatus.word_and_base (c : ControlStatus) : c.word &&& 0xFFFFFFC0#32 = c.ivtp ++ 0#6 := by
  apply BitVec.eq_of_getLsbD_eq
  intro i hi
  simp only [ControlStatus.word, BitVec.getLsbD_and, BitVec.getLsbD_append]
  interval_cases i <;> simp

theorem State.vectorAddr_eq_vectorEntry (s : State) (n : BitVec 4) : s.vectorAddr n = vectorEntry s n := by
  have offset : n.setWidth 32 <<< 2 = BitVec.ofNat 32 (4 * n.toNat) := by bv_omega
  rw [State.vectorAddr, offset, vectorEntry, State.readReg, ControlStatus.word_and_base]

theorem vectorEntry_aligned (s : State) (n : BitVec 4) : vectorEntry s n &&& 3#32 = 0#32 := by
  refine aligned_add ?_ ((aligned_iff _).2 ?_)
  · rw [BitVec.and_assoc]
    exact BitVec.and_zero
  · rw [BitVec.toNat_ofNat]
    omega

/-- An aligned long word read is its four bytes (20_memory.md R63). -/
theorem State.memRead_long_of_aligned (s : State) {a : Word} (h : a &&& 3#32 = 0#32) :
    s.memRead a .long = longAt s a := by
  rw [State.memRead, Size.align_long_of_aligned h]
  rfl

theorem KeepsRegs.enterInterrupt (s : State) (n : BitVec 4) (ret : Word) :
    KeepsRegs s (s.enterInterrupt n ret) [.ia, .cs] := by
  intro r hr
  cases r with
  | ia | cs => simp at hr
  | _ => simp [State.readReg, State.idWord]

theorem Entered.enterInterrupt (s : State) (n : BitVec 4) (ret : Word) : Entered s (s.enterInterrupt n ret) n ret where
  pc := ⟨s.draws, by
    rw [enterInterrupt_pc, s.vectorAddr_eq_vectorEntry, s.memRead_long_of_aligned (vectorEntry_aligned s n)]
    rfl⟩
  hcc := rfl
  hccSaved := rfl
  ia := linkWord_linkBits ret
  som := rfl
  regs := .enterInterrupt s n ret
  memory := .of_eq s _ (by simp) (by simp) (by simp)
  stopped := by simp
  strqSeen := by simp
  lia := by simp
  dbo := by simp
  inputs := by simp
  dbi := by simp
  params := by simp
  bus := by rw [enterInterrupt_bus, State.vectorAccess, s.vectorAddr_eq_vectorEntry]

/-! ### The security exception -/

/-- Choosing the return address touches the counter of free values alone. -/
theorem State.returnChosen_eq (s : State) : s.returnChosen = { s with draws := s.returnChosen.draws } := by
  unfold State.returnChosen
  split <;> rfl

theorem State.offenderReturn_cases (s : State) : s.offenderReturn = s.pc ∨ s.offenderReturn = s.pc + 4#32 := by
  unfold State.offenderReturn
  split
  · exact .inl rfl
  · exact .inr rfl
  · exact (ite_eq_or_eq ..).symm

/-- The counter of free values before the entry does not matter: `Entered` leaves it open. -/
theorem Entered.of_draws {s t : State} {d : Nat} {n : BitVec 4} {ret : Word}
    (h : Entered { s with draws := d } t n ret) : Entered s t n ret :=
  { h with memory := ⟨h.memory.data, h.memory.code⟩ }

theorem Entered.returnChosen (s : State) (n : BitVec 4) (ret : Word) :
    Entered s (s.returnChosen.enterInterrupt n ret) n ret := by
  have entered := Entered.enterInterrupt s.returnChosen n ret
  rw [s.returnChosen_eq] at entered ⊢
  exact entered.of_draws

theorem securityException_of_injected {s : State} (injected : s.stopped = true) :
    securityException s = .refused .injectedSecurityException := by
  rw [securityException, State.securityStop, if_pos injected]
  rfl

theorem securityException_of_masked {s : State} (running : s.stopped = false)
    (needs : s.params.secExcNeedsIe = true) (clear : s.cs.ie = false) :
    securityException s = .refused .maskedSecurityException := by
  simp [securityException, State.securityStop, running, needs, clear, unlessStopped, Stop.outcome]

/-! ### Interrupt enable -/

theorem interruptEnable_of_executes {s : State} (h : s.cs.ir = true ∨ s.params.ieOps = .execute) (c : ControlStatus) :
    interruptEnable s c = .next { s with cs := c, pc := s.follow } := by
  have executes : (!s.cs.ir && s.params.ieOps == .securityException) = false := by
    rcases h with h | h <;> simp [h]
  rw [interruptEnable, executes]
  rfl

theorem interruptEnable_of_traps {s : State} (trap : s.params.ieOps = .securityException)
    (application : s.cs.ir = false) (c : ControlStatus) : interruptEnable s c = securityException s := by
  simp [interruptEnable, trap, application]

/-- The four interrupt-enable instructions differ in their effect on CS alone, which a trap leaves out. -/
theorem exec_of_traps {i : Instr} {s : State} (hi : i ∈ [Instr.stie, .clie, .scie, .rsie])
    (trap : s.params.ieOps = .securityException) (application : s.cs.ir = false) :
    exec i s = securityException s := by
  have raises := interruptEnable_of_traps trap application
  simp only [List.mem_cons, List.not_mem_nil, or_false] at hi
  rcases hi with rfl | rfl | rfl | rfl <;> exact raises _

end Machine

/-- Settles O47: outside the trapping mode the effect on CS happens, in it all four are the security exception. -/
theorem interruptEnable : Obligations.InterruptEnable := by
  intro s
  refine ⟨fun executes => ?_, fun i hi trap application => ?_⟩
  · have runs := Machine.interruptEnable_of_executes executes
    exact ⟨runs _, runs _, runs _, runs _⟩
  · rw [Machine.exec_of_traps hi trap application]
    refine ⟨fun running allowed noStop => ?_, Machine.securityException_of_injected,
      Machine.securityException_of_masked⟩
    rw [← s.vectorAddr_eq_vectorEntry] at noStop
    exact ⟨_, _, Machine.securityException_enters running allowed noStop, .returnChosen s 0 _,
      s.offenderReturn_cases⟩

end Sys2Proof
